-- ==== Sys2Proof/Word.lean ====
section
/-! DEFINITION. The word types of the engine (spec 00_scope.md R15, R16): bytes, byte strings, 32-bit register
words and 16-byte blocks. -/

namespace Sys2Proof

/-- A byte, a number 0 to 255 (R15); bit 7 is the most significant (R16). -/
abbrev Byte := BitVec 8

/-- A byte string: a finite sequence of bytes, byte 0 first (R15). -/
abbrev Bytes := List Byte

/-- The value of a register or of a command word; bit 31 is the most significant (R16). -/
abbrev Word := BitVec 32

/-- A 16-byte block read as the number `int(X)`: byte 0 is the most significant byte, so that block bit `i` of
R16 is bit `127 - i` of the number. -/
abbrev Block := BitVec 128

end Sys2Proof
end

