-- ==== Sys2Proof/Syntax.lean ====
section
/-! DEFINITION. The engine's commands: one constructor for each row of spec/opcode_table.json (30_encoding.md R91). -/

namespace Sys2Proof

/-- The eight commands. The one scalar argument of a command is the unsigned byte `arg` of its word (R92); every
other operand is in a buffer (10_state.md R29). -/
inductive Instr where
  /-- `CLEAR`, op 0x00, `arg` must be 0 (46_system_commands.md R306). -/
  | clear
  /-- `GEN_NONCE size`, op 0x01 (40_nonce_generator.md R130). -/
  | genNonce (size : Byte)
  /-- `PAD blockSize`, op 0x02 (41_padding.md R140). -/
  | pad (blockSize : Byte)
  /-- `UNPAD`, op 0x03, `arg` must be 0 (41_padding.md R143). -/
  | unpad
  /-- `GCM_ENC`, op 0x10, `arg` must be 0 (42_gcm_codec.md R160). -/
  | gcmEnc
  /-- `GCM_DEC`, op 0x11, `arg` must be 0 (42_gcm_codec.md R162). -/
  | gcmDec
  /-- `CBC_ENC sel`, op 0x20, `sel` the hash selector (43_cbc_hmac_codec.md R200). -/
  | cbcEnc (sel : Byte)
  /-- `CBC_DEC sel`, op 0x21, `sel` the hash selector (43_cbc_hmac_codec.md R202). -/
  | cbcDec (sel : Byte)
  deriving DecidableEq, Repr

end Sys2Proof
end

