-- ==== Sys2Proof/WellFormed.lean ====
section
/-! DEFINITION. Which command words are legal (spec 30_encoding.md R90, R91, R95), and which instructions are well
formed. -/

namespace Sys2Proof

/-- The fields of the one format `C` of R90, as a word's writer gives them. -/
structure CommandFields where
  op  : Byte
  arg : Byte
  rsv : BitVec 16
  deriving DecidableEq, Repr

/-- Field `op` is `w[7:0]`, `arg` is `w[15:8]`, `rsv` is `w[31:16]` (R90). -/
def fieldsOf (w : Word) : CommandFields :=
  { op := w.extractLsb' 0 8, arg := w.extractLsb' 8 8, rsv := w.extractLsb' 16 16 }

/-- The eight operation codes of R91. -/
def knownOps : List Byte := [0x00, 0x01, 0x02, 0x03, 0x10, 0x11, 0x20, 0x21]

/-- The operations whose `arg` must be 0 (R92): `CLEAR`, `UNPAD`, `GCM_ENC`, `GCM_DEC`. -/
def opsWithoutArg : List Byte := [0x00, 0x03, 0x10, 0x11]

/-- The first check of R95: the reserved field is 0. -/
def CommandFields.reservedOk (f : CommandFields) : Bool := f.rsv == 0

/-- The second check of R95: `op` is one of the eight values. -/
def CommandFields.opOk (f : CommandFields) : Bool := knownOps.contains f.op

/-- The third check of R95: an operation without an argument has `arg = 0`. -/
def CommandFields.argOk (f : CommandFields) : Bool := !opsWithoutArg.contains f.op || f.arg == 0

/-- A command is well formed when it passes the three checks of R95. -/
def CommandFields.wellFormed (f : CommandFields) : Bool := f.reservedOk && f.opOk && f.argOk

/-- One row of the command map of R91: a word `w` selects the row when `w &&& mask = pattern`. -/
structure CommandRow where
  mnemonic : String
  pattern  : Word
  mask     : Word
  deriving DecidableEq, Repr

/-- The table of R91, in its order. -/
def commandRows : List CommandRow := [
  { mnemonic := "CLEAR",     pattern := 0x00000000, mask := 0xFFFFFFFF },
  { mnemonic := "GEN_NONCE", pattern := 0x00000001, mask := 0xFFFF00FF },
  { mnemonic := "PAD",       pattern := 0x00000002, mask := 0xFFFF00FF },
  { mnemonic := "UNPAD",     pattern := 0x00000003, mask := 0xFFFFFFFF },
  { mnemonic := "GCM_ENC",   pattern := 0x00000010, mask := 0xFFFFFFFF },
  { mnemonic := "GCM_DEC",   pattern := 0x00000011, mask := 0xFFFFFFFF },
  { mnemonic := "CBC_ENC",   pattern := 0x00000020, mask := 0xFFFF00FF },
  { mnemonic := "CBC_DEC",   pattern := 0x00000021, mask := 0xFFFF00FF } ]

/-- `w` selects the row (R91). -/
def CommandRow.selects (r : CommandRow) (w : Word) : Bool := w &&& r.mask == r.pattern

/-- The name of the row an instruction stands for. -/
def Instr.mnemonic : Instr → String
  | .clear      => "CLEAR"
  | .genNonce _ => "GEN_NONCE"
  | .pad _      => "PAD"
  | .unpad      => "UNPAD"
  | .gcmEnc     => "GCM_ENC"
  | .gcmDec     => "GCM_DEC"
  | .cbcEnc _   => "CBC_ENC"
  | .cbcDec _   => "CBC_DEC"

/-- The fields an instruction is written with (R91, R92). -/
def Instr.fields : Instr → CommandFields
  | .clear      => { op := 0x00, arg := 0, rsv := 0 }
  | .genNonce n => { op := 0x01, arg := n, rsv := 0 }
  | .pad bs     => { op := 0x02, arg := bs, rsv := 0 }
  | .unpad      => { op := 0x03, arg := 0, rsv := 0 }
  | .gcmEnc     => { op := 0x10, arg := 0, rsv := 0 }
  | .gcmDec     => { op := 0x11, arg := 0, rsv := 0 }
  | .cbcEnc sel => { op := 0x20, arg := sel, rsv := 0 }
  | .cbcDec sel => { op := 0x21, arg := sel, rsv := 0 }

/-- An instruction is well formed when its fields are. Every term of `Instr` is: an argument's type is the byte the
encoding gives it, and R92 makes every value of it legal (`PAD 0` decodes and then fails as an operation). -/
def Instr.wellFormed (i : Instr) : Bool := i.fields.wellFormed

end Sys2Proof
end

