-- ==== Sys2Proof/Decode.lean ====
section
/-! DEFINITION. The decoder of command words (spec 30_encoding.md R93, R95), total and rejecting by name, and the
encoder (R91, R97). -/

namespace Sys2Proof

/-- Why a word is illegal (R95). The machine treats all three alike (`IllegalCommandError`). -/
inductive IllegalWord where
  /-- `rsv` is not 0. -/
  | reservedNotZero
  /-- `op` is one of the 248 reserved values. -/
  | reservedOp
  /-- `arg` is not 0 on `CLEAR`, `UNPAD`, `GCM_ENC` or `GCM_DEC`. -/
  | argNotZero
  deriving DecidableEq, Repr

/-- An instruction that takes no argument: `arg` must be 0 (R92). -/
def noArg (arg : Byte) (i : Instr) : Except IllegalWord Instr :=
  if arg = 0 then .ok i else .error .argNotZero

/-- The `case op of` of R93. -/
def decodeOp (op arg : Byte) : Except IllegalWord Instr :=
  if op = 0x00 then noArg arg .clear
  else if op = 0x01 then .ok (.genNonce arg)
  else if op = 0x02 then .ok (.pad arg)
  else if op = 0x03 then noArg arg .unpad
  else if op = 0x10 then noArg arg .gcmEnc
  else if op = 0x11 then noArg arg .gcmDec
  else if op = 0x20 then .ok (.cbcEnc arg)
  else if op = 0x21 then .ok (.cbcDec arg)
  else .error .reservedOp

/-- `Decode(w)` of R93. -/
def decode (w : Word) : Except IllegalWord Instr :=
  let f := fieldsOf w
  if f.rsv = 0 then decodeOp f.op f.arg else .error .reservedNotZero

/-- The word of a set of fields (R90). -/
def wordOf (f : CommandFields) : Word := f.rsv ++ f.arg ++ f.op

/-- The word of an instruction: `op or (arg << 8)` (R97). -/
def encode (i : Instr) : Word := wordOf i.fields

/-- The instruction the decoder reads from a word whose bits are numbered as spec/opcode_table.json numbers them.
A command is one word of 32 bits that reaches the engine whole (20_memory.md R61, R66), so there is no byte order to
apply; bits above `nbits` are 0 in `w`. -/
def decodeTableWord (_nbits w : Nat) : Option Instr :=
  match decode (BitVec.ofNat 32 w) with
  | .ok i => some i
  | .error _ => none

end Sys2Proof
end

