-- ==== Sys2Proof/Config.lean ====
section
/-! DEFINITION. What an engine instance fixes (the parameters of spec 00_scope.md R13) and the model's free value,
the entropy source's answer (40_nonce_generator.md R132 to R134). -/

namespace Sys2Proof
namespace Config

/-- One answer on the entropy port: the bit `ok` and a byte string (R132). -/
structure EntropyAnswer where
  ok   : Bool
  data : Bytes
  deriving DecidableEq, Repr

/-- The block cipher parameter `BC` (44_block_cipher.md R240): the key lengths in bytes it accepts, encryption and
decryption of one 16-byte block under a key. -/
structure BlockCipher where
  keyLens : List Nat
  enc     : Bytes → Block → Block
  dec     : Bytes → Block → Block

/-- One entry of the hash table `HT` (45_hash_hmac.md R270). -/
structure HashAlg where
  digestLen : Nat
  blockLen  : Nat
  hash      : Bytes → Bytes

/-- The open parameters of R13 other than `BUS`: the capacities of the operand buffers, the block cipher and the
hash table (selector to entry). -/
structure Params where
  keyMax  : Nat
  akeyMax : Nat
  inMax   : Nat
  bc      : BlockCipher
  ht      : Byte → Option HashAlg

/-- `OUT_MAX` is fixed at `IN_MAX + 255` (R13). -/
def Params.outMax (p : Params) : Nat := p.inMax + 255

/-- The constraint R13 and R240 put on `BC`: a 16-byte key is accepted and decryption undoes encryption. -/
structure BlockCipher.Valid (bc : BlockCipher) : Prop where
  takes16 : 16 ∈ bc.keyLens
  inverse : ∀ k x, k.length ∈ bc.keyLens → bc.dec k (bc.enc k x) = x

/-- The constraint R270 puts on an entry of `HT`. -/
structure HashAlg.Valid (h : HashAlg) : Prop where
  digest_pos     : 1 ≤ h.digestLen
  digest_le_64   : h.digestLen ≤ 64
  digest_le_blk  : h.digestLen ≤ h.blockLen
  hash_length    : ∀ m, (h.hash m).length = h.digestLen

/-- The constraints of the table of R13. -/
structure Params.Valid (p : Params) : Prop where
  keyMax_ge  : 32 ≤ p.keyMax
  keyMax_lt  : p.keyMax < 2 ^ 32
  akeyMax_ge : 1 ≤ p.akeyMax
  akeyMax_lt : p.akeyMax < 2 ^ 32
  inMax_ge   : 98 ≤ p.inMax
  inMax_le   : p.inMax ≤ 2 ^ 32 - 256
  bc_valid   : p.bc.Valid
  ht_valid   : ∀ sel h, p.ht sel = some h → h.Valid

/-- FREE VALUE (log entry 3): what the entropy source does when nothing in the state's script says so. `none` is a
turn in which it gives no answer (R135: it may never answer), `some a` the answer `a` (R133: any answer). It has no
body: no proof can see a value of it. -/
opaque entropySource : Nat → Option EntropyAnswer

end Config
end Sys2Proof
end

