-- ==== Sys2Proof/Machine/State.lean ====
section
/-! DEFINITION. The state of the engine as plain data (spec 10_state.md), the reasons a step can stop, and the state
after reset (R36). -/

namespace Sys2Proof
namespace Machine

/-- Why the machine would stop with a fault. It has no constructor: no rule of the spec stops the engine. An
operation that cannot finish ends with an error completion, a next state (60_exceptions.md R330), and every host
access has a result (10_state.md R21, R30; 20_memory.md R62 to R65). Safe: nothing raises it. -/
inductive Fault : Type
  deriving DecidableEq, Repr

/-- Why an instruction has no meaning. -/
inductive Refusal where
  /-- Raised only by an arm of `exec` whose instruction is not modelled yet (there is none). Safe: the machine
  stops. -/
  | notModelled (mnemonic : String)
  deriving DecidableEq, Repr

/-- The errors an operation can end with (60_exceptions.md R320), in the order of their codes. -/
inductive EngineError where
  | keyTooShort
  | invalidNonceLength
  | invalidIVLength
  | invalidMacLength
  | authenticationFailed
  | randomSource
  | cipherInitialization
  | illegalCommand
  | operandLength
  | unsupportedHash
  | invalidBlockSize
  | malformedCiphertext
  | malformedPadding
  deriving DecidableEq, Repr

/-- The field `STATUS.state` (R23). -/
inductive EngineState where
  | idle
  | busy
  | done
  | error
  deriving DecidableEq, Repr

/-- The internal register `phase` (R26). -/
inductive Phase where
  | run
  | wait
  deriving DecidableEq, Repr

/-- A byte-addressed buffer (R30): (index, byte) pairs, indices strictly rising, no byte 0x00 listed. An unlisted
byte reads 0x00, the contents R36 gives after reset. -/
abbrev Memory := List Host.Cell

/-- The working registers (R32). Each holds zero whenever a step of the engine is over (R33; log entry 5). -/
structure WorkRegs where
  k  : BitVec 256
  rk : BitVec 1920
  nv : BitVec 128
  hk : BitVec 128
  j0 : BitVec 128
  cb : BitVec 128
  y  : BitVec 128
  tg : BitVec 128
  cv : BitVec 128
  hs : BitVec 512
  hb : BitVec 1024
  mc : BitVec 512
  deriving DecidableEq, Repr

/-- Every byte of every working register 0 (R33, R36). -/
def WorkRegs.zero : WorkRegs :=
  { k := 0, rk := 0, nv := 0, hk := 0, j0 := 0, cb := 0, y := 0, tg := 0, cv := 0, hs := 0, hb := 0, mc := 0 }

/-- One event an agent makes (R20): the host's four accesses (20_memory.md R60), the engine's turn to take a step,
the entropy source's answer (40_nonce_generator.md R133), and reset (70_reset_and_hazards.md R360). `entropy era a` is
the answer `a` to a request that was made after `era` resets (log entry 16). -/
inductive Input where
  | readReg (n : Nat)
  | writeReg (n : Nat) (v : Word)
  | readBuf (id i : Nat)
  | writeBuf (id i : Nat) (v : Byte)
  | engineTurn
  | entropy (era : Nat) (a : Config.EntropyAnswer)
  | reset
  deriving DecidableEq, Repr

/-- The state. Beside the spec's own pieces it holds four fields of the model: `inputs`, the events the agents have
still to make (log entry 2); `readData`, what the last host read returned (log entry 4); `ticks`, the index of the
next free entropy value (log entry 3); `resets`, the number of resets so far, by which an answer to a request made
before a reset is told from one made after it (log entry 16). -/
structure State where
  /-- `CMD`, register 0 (R22). -/
  cmd      : Word
  /-- `STATUS.state` (R23). -/
  engine   : EngineState
  /-- `STATUS.HAZ` (R23). -/
  haz      : Bool
  /-- `ERR.code`, none for code 0 (R24). -/
  err      : Option EngineError
  /-- `CTRL.IE` (R25). -/
  ie       : Bool
  /-- `KEY_LEN`, register 4 (R27). -/
  keyLen   : Word
  /-- `AKEY_LEN`, register 5 (R27). -/
  akeyLen  : Word
  /-- `IN_LEN`, register 6 (R27). -/
  inLen    : Word
  /-- `OUT_LEN`, register 7 (R28). -/
  outLen   : Word
  /-- Buffer `KEY` (R30). -/
  key      : Memory
  /-- Buffer `AKEY` (R30). -/
  akey     : Memory
  /-- Buffer `IN` (R30). -/
  inp      : Memory
  /-- Buffer `OUT` (R30). -/
  out      : Memory
  /-- `phase` (R26). -/
  phase    : Phase
  /-- `rng_n` (R26). -/
  rngN     : BitVec 8
  /-- The working registers (R32). -/
  work     : WorkRegs
  /-- The answer the entropy source presents in this step, if any (40_nonce_generator.md R132). -/
  answer   : Option Config.EntropyAnswer
  /-- MODEL: the events still to come. -/
  inputs   : List Input
  /-- MODEL: the value of the last host read. -/
  readData : Word
  /-- MODEL: how many free entropy values have been asked for. -/
  ticks    : Nat
  /-- MODEL: how many resets there have been. -/
  resets   : Nat
  deriving DecidableEq, Repr

/-- The state after reset (R36). -/
def State.reset : State :=
  { cmd := 0, engine := .idle, haz := false, err := none, ie := false,
    keyLen := 0, akeyLen := 0, inLen := 0, outLen := 0,
    key := [], akey := [], inp := [], out := [],
    phase := .run, rngN := 0, work := WorkRegs.zero, answer := none,
    inputs := [], readData := 0, ticks := 0, resets := 0 }

end Machine
end Sys2Proof
end

