-- ==== Sys2Proof/Machine/Frames.lean ====
section
/-! DEFINITION. The two frame formats: serializers and parsers (spec 30_encoding.md R100 to R109). -/

namespace Sys2Proof
namespace Machine

/-- A length as the one unsigned byte a frame holds (R12). -/
def lengthByte (s : Bytes) : Byte := BitVec.ofNat 8 s.length

/-- `SerializeGcmFrame(nonce, ct)` (R101). -/
def serializeGcmFrame (nonce ct : Bytes) : Bytes := lengthByte nonce :: (nonce ++ ct)

/-- The two fields of a GCM frame (R100). -/
structure GcmFrame where
  nonce : Bytes
  ct    : Bytes
  deriving DecidableEq, Repr

/-- `ParseGcmFrame(f)` (R102). -/
def parseGcmFrame (f : Bytes) : Except EngineError GcmFrame :=
  match f with
  | [] => .error .invalidNonceLength
  | nl :: _ =>
    if nl ≠ 12 then .error .invalidNonceLength
    else if f.length < 13 then .error .invalidNonceLength
    else .ok { nonce := (f.take 13).drop 1, ct := f.drop 13 }

/-- `SerializeCbcFrame(iv, mac, ct)` (R105). -/
def serializeCbcFrame (iv mac ct : Bytes) : Bytes :=
  lengthByte iv :: (iv ++ lengthByte mac :: (mac ++ ct))

/-- The three fields of a CBC-HMAC frame (R104). -/
structure CbcFrame where
  iv  : Bytes
  mac : Bytes
  ct  : Bytes
  deriving DecidableEq, Repr

/-- `ParseCbcFrame(f)` (R106). -/
def parseCbcFrame (f : Bytes) : Except EngineError CbcFrame :=
  match f with
  | [] => .error .invalidIVLength
  | il :: _ =>
    if il ≠ 16 then .error .invalidIVLength
    else if f.length < 17 then .error .invalidIVLength
    else if f.length < 18 then .error .invalidMacLength
    else
      let ml := (f.getD 17 0).toNat
      if f.length - 18 < ml then .error .invalidMacLength
      else .ok { iv := (f.take 17).drop 1, mac := (f.drop 18).take ml, ct := f.drop (18 + ml) }

end Machine
end Sys2Proof
end

