-- ==== Sys2Proof/Machine/Bytes.lean ====
section
/-! DEFINITION. Byte strings, big-endian numbers and blocks (spec 00_scope.md R15, R16; 20_memory.md R61). -/

namespace Sys2Proof
namespace Machine

/-- The `n`-byte big-endian encoding of `v`, most significant byte first (`be32`, `be64`, `be128` of R16). -/
def beBytes (n v : Nat) : Bytes :=
  (List.range n).map fun i => BitVec.ofNat 8 (v >>> (8 * (n - 1 - i)))

/-- `int(s)`: a byte string read as a big-endian number (R16). -/
def intOf (s : Bytes) : Nat := s.foldl (fun acc b => acc * 256 + b.toNat) 0

/-- The 16 bytes of a block, byte 0 first. -/
def blockBytes (x : Block) : Bytes := beBytes 16 x.toNat

/-- The block a 16-byte string is. -/
def blockOf (s : Bytes) : Block := BitVec.ofNat 128 (intOf s)

/-- `0^n` (R15). -/
def zeros (n : Nat) : Bytes := List.replicate n 0

/-- `a xor b` on byte strings, byte by byte (R16); the shorter one ends the result. -/
def xorBytes (a b : Bytes) : Bytes := List.zipWith (· ^^^ ·) a b

/-- `m` pieces of `n` bytes each from the front of `s`; a last piece may be short. -/
def pieces (n : Nat) : Nat → Bytes → List Bytes
  | 0, _ => []
  | m + 1, s => s.take n :: pieces n m (s.drop n)

/-- The 16-byte blocks of a string whose length is a multiple of 16. -/
def blocksOf (s : Bytes) : List Block := (pieces 16 (s.length / 16) s).map blockOf

/-- The byte string a list of blocks is. -/
def bytesOfBlocks (bs : List Block) : Bytes := bs.flatMap blockBytes

end Machine
end Sys2Proof
end

