-- ==== Sys2Proof/Machine/Hmac.lean ====
section
/-! DEFINITION. HMAC (spec 45_hash_hmac.md R276) and the equality check of the verifier (43_cbc_hmac_codec.md
R208). -/

namespace Sys2Proof
namespace Machine

/-- `k0`: a key longer than a block is hashed, then zeros complete it to `blockLen` bytes (R276). -/
def hmacKey (h : Config.HashAlg) (key : Bytes) : Bytes :=
  let k0 := if h.blockLen < key.length then h.hash key else key
  k0 ++ zeros (h.blockLen - k0.length)

/-- `HMAC(h, key, msg)` (R276). -/
def hmac (h : Config.HashAlg) (key msg : Bytes) : Bytes :=
  let ipad := (hmacKey h key).map (· ^^^ 0x36)
  let opad := (hmacKey h key).map (· ^^^ 0x5c)
  h.hash (opad ++ h.hash (ipad ++ msg))

/-- `CtEq(a, b)`: strings of different length differ; else every byte is looked at and the differences are gathered
(R208). -/
def ctEq (a b : Bytes) : Bool :=
  if a.length = b.length then (xorBytes a b).foldl (fun acc d => acc ||| d) (0 : Byte) == 0 else false

end Machine
end Sys2Proof
end

