-- ==== Sys2Proof/Machine/Flags.lean ====
section
/-! DEFINITION. The registers a host reads that are made of fields (`STATUS`, `ERR`, `CTRL`), the error codes and
the interrupt output (spec 10_state.md R23 to R25, 60_exceptions.md R320, R340). -/

namespace Sys2Proof
namespace Machine

/-- The value of `STATUS.state` (R23). -/
def EngineState.bits : EngineState → BitVec 2
  | .idle  => 0
  | .busy  => 1
  | .done  => 2
  | .error => 3

/-- The error codes of R320. -/
def EngineError.code : EngineError → Byte
  | .keyTooShort          => 1
  | .invalidNonceLength   => 2
  | .invalidIVLength      => 3
  | .invalidMacLength     => 4
  | .authenticationFailed => 5
  | .randomSource         => 6
  | .cipherInitialization => 7
  | .illegalCommand       => 16
  | .operandLength        => 17
  | .unsupportedHash      => 18
  | .invalidBlockSize     => 19
  | .malformedCiphertext  => 20
  | .malformedPadding     => 21

/-- `ERR.code`: 0 when there is no error (R24, R320). -/
def errCode : Option EngineError → Byte
  | none   => 0
  | some e => e.code

/-- Register `STATUS`: `state` in bits 1:0, `HAZ` in bit 2, bits 31:3 read 0 (R23; log entry 7). -/
def State.statusWord (s : State) : Word := (0 : BitVec 29) ++ BitVec.ofBool s.haz ++ s.engine.bits

/-- Register `ERR`: `code` in bits 7:0, bits 31:8 read 0 (R24; log entry 7). -/
def State.errWord (s : State) : Word := (0 : BitVec 24) ++ errCode s.err

/-- Register `CTRL`: `IE` in bit 0, bits 31:1 read 0 (R25; log entry 7). -/
def State.ctrlWord (s : State) : Word := (0 : BitVec 31) ++ BitVec.ofBool s.ie

/-- The interrupt output, a level: `CTRL.IE and (STATUS.state = DONE or STATUS.state = ERROR)` (R340). -/
def State.irq (s : State) : Bool := s.ie && (s.engine == .done || s.engine == .error)

/-- A request is outstanding on the entropy port: its length in bytes (R132, R133, R26). -/
def State.request (s : State) : Option (BitVec 8) :=
  if s.engine = .busy ∧ s.phase = .wait then some s.rngN else none

end Machine
end Sys2Proof
end

