-- ==== Sys2Proof/Machine/Ops.lean ====
section
/-! DEFINITION. The operations every meaning is made of: reading and writing a buffer (spec 00_scope.md R17,
10_state.md R30), the start of a command (46_system_commands.md R302), asking for random bytes (R303), and the two
completions (R305; the error completion is 60_exceptions.md R330). -/

namespace Sys2Proof
namespace Machine

/-- The byte at an index; a byte not listed is 0x00 (R30, R36). -/
def Memory.read : Memory → Nat → Byte
  | [], _ => 0
  | (a, v) :: m, i => if a = i then v else Memory.read m i

/-- The cells of a byte string placed from index `off` on; a byte 0x00 is not listed. -/
def Memory.cells : Nat → Bytes → Memory
  | _, [] => []
  | off, v :: vs => if v = 0 then Memory.cells (off + 1) vs else (off, v) :: Memory.cells (off + 1) vs

/-- `MemRead(buf, off, n)` (R17). -/
def Memory.readBytes (m : Memory) (off n : Nat) : Bytes := (List.range n).map fun i => Memory.read m (off + i)

/-- `MemWrite(buf, off, n, v)` with `n = len(v)` (R17): the bytes of the range are replaced, every other byte
stays. -/
def Memory.writeBytes (m : Memory) (off : Nat) (v : Bytes) : Memory :=
  m.filter (fun c => c.1 < off) ++ Memory.cells off v ++ m.filter (fun c => off + v.length ≤ c.1)

/-- One byte written. -/
def Memory.write (m : Memory) (i : Nat) (v : Byte) : Memory := Memory.writeBytes m i [v]

/-- The canonical form: indices strictly rising and no byte 0x00 listed. -/
def Memory.wf : Memory → Bool
  | [] => true
  | [(_, v)] => v != 0
  | (a, v) :: (b, w) :: m => v != 0 && (a < b) && Memory.wf ((b, w) :: m)

/-- Every listed index is below a bound. -/
def Memory.below (m : Memory) (cap : Nat) : Bool := m.all fun c => c.1 < cap

/-- The clears of every completion (10_state.md R33): operand buffers and their lengths, the working registers, the
sequencer, and the answer that was on the entropy port. -/
def State.clearOperands (s : State) : State :=
  { s with key := [], akey := [], inp := [], keyLen := 0, akeyLen := 0, inLen := 0,
           work := WorkRegs.zero, phase := .run, rngN := 0, answer := none }

/-- `Finish(Ok out)` (46_system_commands.md R305). -/
def State.finishOk (s : State) (out : Bytes) : State :=
  State.clearOperands
    { s with out := Memory.writeBytes s.out 0 out, outLen := BitVec.ofNat 32 out.length, err := none,
             engine := .done }

/-- `Finish(Err code)`, the error completion (60_exceptions.md R330): the engine's one exception entry. Nothing is
saved and control goes nowhere (R331, R332); the return from it is the next command (R302). -/
def State.finishErr (s : State) (e : EngineError) : State :=
  State.clearOperands { s with out := [], outLen := 0, err := some e, engine := .error }

/-- `Finish(r)` (R305). -/
def State.finish (s : State) : Except EngineError Bytes → State
  | .ok out  => s.finishOk out
  | .error e => s.finishErr e

/-- `FinishClear` (R306): everything the command `CLEAR` writes. -/
def State.finishClear (s : State) : State :=
  { State.clearOperands s with out := [], outLen := 0, err := none, haz := false, engine := .idle }

/-- The start of a command (R302): the host's word is stored and the last result is wiped. -/
def State.startCommand (s : State) (w : Word) : State :=
  { s with cmd := w, engine := .busy, phase := .run, rngN := 0, err := none, outLen := 0, out := [] }

/-- `Need(n)` (R303): the request for `n` random bytes is presented and the operation waits. -/
def State.need (s : State) (n : BitVec 8) : State := { s with phase := .wait, rngN := n }

/-- The rest of a drawing operation in the entropy answer step (40_nonce_generator.md R133): its result with the
answer on the port; without an answer it goes on waiting (R135). -/
def State.resume (s : State) (rest : Config.EntropyAnswer → Except EngineError Bytes) : State :=
  match s.answer with
  | none   => s
  | some a => s.finish (rest a)

/-- Reset (70_reset_and_hazards.md R360): every piece of the engine's state at its value of R36. The events the
outside agents have still to make, the value the host read last and the counter of free values are not the engine's
and stay (log entry 8); the reset is counted (log entry 16). -/
def State.doReset (s : State) : State :=
  { State.reset with inputs := s.inputs, readData := s.readData, ticks := s.ticks, resets := s.resets + 1 }

end Machine
end Sys2Proof
end

