-- ==== Sys2Proof/Machine/Operands.lean ====
section
/-! DEFINITION. The operands of the commands (spec 10_state.md R29, R30) and the check every command but `CLEAR`
makes of their lengths (46_system_commands.md R304). -/

namespace Sys2Proof
namespace Machine

/-- `KEY[0..KEY_LEN)`: the source's `key` and `encKey` (R29). -/
def State.keyBytes (s : State) : Bytes := Memory.readBytes s.key 0 s.keyLen.toNat

/-- `AKEY[0..AKEY_LEN)`: the source's `authKey` (R29). -/
def State.akeyBytes (s : State) : Bytes := Memory.readBytes s.akey 0 s.akeyLen.toNat

/-- `IN[0..IN_LEN)`: the source's `plaintext`, `frame` or `data` (R29). -/
def State.inBytes (s : State) : Bytes := Memory.readBytes s.inp 0 s.inLen.toNat

/-- `OUT[0..OUT_LEN)`: the result (R30). -/
def State.outBytes (s : State) : Bytes := Memory.readBytes s.out 0 s.outLen.toNat

/-- `LengthsOk()` (R304). -/
def State.lengthsOk (p : Config.Params) (s : State) : Bool :=
  s.keyLen.toNat ≤ p.keyMax && s.akeyLen.toNat ≤ p.akeyMax && s.inLen.toNat ≤ p.inMax

/-- The check of R304 before an operation's own steps: `OperandLengthError` when it fails, and no buffer byte is
read. -/
def State.checked (p : Config.Params) (s : State) (run : State) : State :=
  if s.lengthsOk p then run else s.finishErr .operandLength

end Machine
end Sys2Proof
end

