-- ==== Sys2Proof/Machine/Aes.lean ====
section
/-! DEFINITION. AES, the default block cipher (spec 44_block_cipher.md R242 to R252). -/

namespace Sys2Proof
namespace Machine

/-- Multiplication by `x` in GF(2^8) (R244). -/
def xtime (a : Byte) : Byte :=
  if a.getLsbD 7 = false then a <<< 1 else (a <<< 1) ^^^ 0x1b

/-- Multiplication in GF(2^8): the xor of `xtime^i(a)` over the bits `i` of `b` that are 1 (R244). -/
def mul8 (a b : Byte) : Byte :=
  ((List.range 8).foldl
    (fun (st : Byte × Byte) i => (if b.getLsbD i then st.1 ^^^ st.2 else st.1, xtime st.2)) (0, a)).1

/-- The table `SBOX` of R245: row = high nibble, column = low nibble. -/
def sboxRows : List (List Byte) := [
  [0x63, 0x7c, 0x77, 0x7b, 0xf2, 0x6b, 0x6f, 0xc5, 0x30, 0x01, 0x67, 0x2b, 0xfe, 0xd7, 0xab, 0x76],
  [0xca, 0x82, 0xc9, 0x7d, 0xfa, 0x59, 0x47, 0xf0, 0xad, 0xd4, 0xa2, 0xaf, 0x9c, 0xa4, 0x72, 0xc0],
  [0xb7, 0xfd, 0x93, 0x26, 0x36, 0x3f, 0xf7, 0xcc, 0x34, 0xa5, 0xe5, 0xf1, 0x71, 0xd8, 0x31, 0x15],
  [0x04, 0xc7, 0x23, 0xc3, 0x18, 0x96, 0x05, 0x9a, 0x07, 0x12, 0x80, 0xe2, 0xeb, 0x27, 0xb2, 0x75],
  [0x09, 0x83, 0x2c, 0x1a, 0x1b, 0x6e, 0x5a, 0xa0, 0x52, 0x3b, 0xd6, 0xb3, 0x29, 0xe3, 0x2f, 0x84],
  [0x53, 0xd1, 0x00, 0xed, 0x20, 0xfc, 0xb1, 0x5b, 0x6a, 0xcb, 0xbe, 0x39, 0x4a, 0x4c, 0x58, 0xcf],
  [0xd0, 0xef, 0xaa, 0xfb, 0x43, 0x4d, 0x33, 0x85, 0x45, 0xf9, 0x02, 0x7f, 0x50, 0x3c, 0x9f, 0xa8],
  [0x51, 0xa3, 0x40, 0x8f, 0x92, 0x9d, 0x38, 0xf5, 0xbc, 0xb6, 0xda, 0x21, 0x10, 0xff, 0xf3, 0xd2],
  [0xcd, 0x0c, 0x13, 0xec, 0x5f, 0x97, 0x44, 0x17, 0xc4, 0xa7, 0x7e, 0x3d, 0x64, 0x5d, 0x19, 0x73],
  [0x60, 0x81, 0x4f, 0xdc, 0x22, 0x2a, 0x90, 0x88, 0x46, 0xee, 0xb8, 0x14, 0xde, 0x5e, 0x0b, 0xdb],
  [0xe0, 0x32, 0x3a, 0x0a, 0x49, 0x06, 0x24, 0x5c, 0xc2, 0xd3, 0xac, 0x62, 0x91, 0x95, 0xe4, 0x79],
  [0xe7, 0xc8, 0x37, 0x6d, 0x8d, 0xd5, 0x4e, 0xa9, 0x6c, 0x56, 0xf4, 0xea, 0x65, 0x7a, 0xae, 0x08],
  [0xba, 0x78, 0x25, 0x2e, 0x1c, 0xa6, 0xb4, 0xc6, 0xe8, 0xdd, 0x74, 0x1f, 0x4b, 0xbd, 0x8b, 0x8a],
  [0x70, 0x3e, 0xb5, 0x66, 0x48, 0x03, 0xf6, 0x0e, 0x61, 0x35, 0x57, 0xb9, 0x86, 0xc1, 0x1d, 0x9e],
  [0xe1, 0xf8, 0x98, 0x11, 0x69, 0xd9, 0x8e, 0x94, 0x9b, 0x1e, 0x87, 0xe9, 0xce, 0x55, 0x28, 0xdf],
  [0x8c, 0xa1, 0x89, 0x0d, 0xbf, 0xe6, 0x42, 0x68, 0x41, 0x99, 0x2d, 0x0f, 0xb0, 0x54, 0xbb, 0x16]]

/-- The table `INV_SBOX` of R245. -/
def invSboxRows : List (List Byte) := [
  [0x52, 0x09, 0x6a, 0xd5, 0x30, 0x36, 0xa5, 0x38, 0xbf, 0x40, 0xa3, 0x9e, 0x81, 0xf3, 0xd7, 0xfb],
  [0x7c, 0xe3, 0x39, 0x82, 0x9b, 0x2f, 0xff, 0x87, 0x34, 0x8e, 0x43, 0x44, 0xc4, 0xde, 0xe9, 0xcb],
  [0x54, 0x7b, 0x94, 0x32, 0xa6, 0xc2, 0x23, 0x3d, 0xee, 0x4c, 0x95, 0x0b, 0x42, 0xfa, 0xc3, 0x4e],
  [0x08, 0x2e, 0xa1, 0x66, 0x28, 0xd9, 0x24, 0xb2, 0x76, 0x5b, 0xa2, 0x49, 0x6d, 0x8b, 0xd1, 0x25],
  [0x72, 0xf8, 0xf6, 0x64, 0x86, 0x68, 0x98, 0x16, 0xd4, 0xa4, 0x5c, 0xcc, 0x5d, 0x65, 0xb6, 0x92],
  [0x6c, 0x70, 0x48, 0x50, 0xfd, 0xed, 0xb9, 0xda, 0x5e, 0x15, 0x46, 0x57, 0xa7, 0x8d, 0x9d, 0x84],
  [0x90, 0xd8, 0xab, 0x00, 0x8c, 0xbc, 0xd3, 0x0a, 0xf7, 0xe4, 0x58, 0x05, 0xb8, 0xb3, 0x45, 0x06],
  [0xd0, 0x2c, 0x1e, 0x8f, 0xca, 0x3f, 0x0f, 0x02, 0xc1, 0xaf, 0xbd, 0x03, 0x01, 0x13, 0x8a, 0x6b],
  [0x3a, 0x91, 0x11, 0x41, 0x4f, 0x67, 0xdc, 0xea, 0x97, 0xf2, 0xcf, 0xce, 0xf0, 0xb4, 0xe6, 0x73],
  [0x96, 0xac, 0x74, 0x22, 0xe7, 0xad, 0x35, 0x85, 0xe2, 0xf9, 0x37, 0xe8, 0x1c, 0x75, 0xdf, 0x6e],
  [0x47, 0xf1, 0x1a, 0x71, 0x1d, 0x29, 0xc5, 0x89, 0x6f, 0xb7, 0x62, 0x0e, 0xaa, 0x18, 0xbe, 0x1b],
  [0xfc, 0x56, 0x3e, 0x4b, 0xc6, 0xd2, 0x79, 0x20, 0x9a, 0xdb, 0xc0, 0xfe, 0x78, 0xcd, 0x5a, 0xf4],
  [0x1f, 0xdd, 0xa8, 0x33, 0x88, 0x07, 0xc7, 0x31, 0xb1, 0x12, 0x10, 0x59, 0x27, 0x80, 0xec, 0x5f],
  [0x60, 0x51, 0x7f, 0xa9, 0x19, 0xb5, 0x4a, 0x0d, 0x2d, 0xe5, 0x7a, 0x9f, 0x93, 0xc9, 0x9c, 0xef],
  [0xa0, 0xe0, 0x3b, 0x4d, 0xae, 0x2a, 0xf5, 0xb0, 0xc8, 0xeb, 0xbb, 0x3c, 0x83, 0x53, 0x99, 0x61],
  [0x17, 0x2b, 0x04, 0x7e, 0xba, 0x77, 0xd6, 0x26, 0xe1, 0x69, 0x14, 0x63, 0x55, 0x21, 0x0c, 0x7d]]

/-- Entry `16 * row + column` of a table of R245. -/
def tableEntry (rows : List (List Byte)) (a : Byte) : Byte :=
  (rows.getD (a.toNat / 16) []).getD (a.toNat % 16) 0

/-- `SBOX[a]` (R245; log entry 11). -/
def sbox (a : Byte) : Byte := tableEntry sboxRows a

/-- `INV_SBOX[a]` (R245; log entry 11). -/
def invSbox (a : Byte) : Byte := tableEntry invSboxRows a

/-- The affine step of the definition in R245, from the inverse `b` to the entry. -/
def sboxAffine (b : Byte) : Byte :=
  b ^^^ b.rotateLeft 1 ^^^ b.rotateLeft 2 ^^^ b.rotateLeft 3 ^^^ b.rotateLeft 4 ^^^ 0x63

/-- `RotWord(a0 a1 a2 a3) = a1 a2 a3 a0` (R246), the word read big-endian. -/
def rotWord (w : Word) : Word := w.rotateLeft 8

/-- `SubWord`: `SBOX` on each of the four bytes (R246). -/
def subWord (w : Word) : Word := BitVec.ofNat 32 (intOf ((beBytes 4 w.toNat).map sbox))

/-- `rc_j`: `rc_1 = 01`, `rc_{j+1} = xtime(rc_j)` (R246). -/
def rc (j : Nat) : Byte := (List.range (j - 1)).foldl (fun a _ => xtime a) 1

/-- `Rcon[j] = (rc_j, 00, 00, 00)` (R246). -/
def rcon (j : Nat) : Word := rc j ++ (0 : BitVec 24)

/-- The word `w[i]` from the words before it, latest first in `ws`, `i = ws.length` (the loop body of R246). -/
def nextWord (nk : Nat) (ws : List Word) : Word :=
  let i := ws.length
  let t := ws.getD 0 0
  let t' :=
    if i % nk = 0 then subWord (rotWord t) ^^^ rcon (i / nk)
    else if 6 < nk ∧ i % nk = 4 then subWord t
    else t
  ws.getD (nk - 1) 0 ^^^ t'

/-- `m` more words on a list that holds the latest word first. -/
def expandWords (nk : Nat) : Nat → List Word → List Word
  | 0, ws => ws
  | m + 1, ws => expandWords nk m (nextWord nk ws :: ws)

/-- `Nk`, the key length in words (R242). -/
def aesNk (k : Bytes) : Nat := k.length / 4

/-- `Nr = Nk + 6` (R242). -/
def aesNr (k : Bytes) : Nat := aesNk k + 6

/-- `KeyExpansion(K)`: the words `w[0] .. w[4*Nr + 3]` (R246). -/
def keyExpansion (k : Bytes) : List Word :=
  let nk := aesNk k
  let first := (pieces 4 nk k).map fun p => BitVec.ofNat 32 (intOf p)
  (expandWords nk (4 * (aesNr k + 1) - nk) first.reverse).reverse

/-- Round key `r` is `w[4r] || w[4r+1] || w[4r+2] || w[4r+3]` (R246). -/
def roundKeysOf : List Word → List Block
  | w0 :: w1 :: w2 :: w3 :: rest => (w0 ++ w1 ++ w2 ++ w3 : BitVec (32 + 32 + 32 + 32)) :: roundKeysOf rest
  | _ => []

/-- The round keys `rk[0] .. rk[Nr]` of a key. -/
def roundKeys (k : Bytes) : List Block := roundKeysOf (keyExpansion k)

/-- `SubBytes` (R248). -/
def subBytes (s : Block) : Block := blockOf ((blockBytes s).map sbox)

/-- `InvSubBytes` (R248). -/
def invSubBytes (s : Block) : Block := blockOf ((blockBytes s).map invSbox)

/-- The input byte each output byte of `ShiftRows` is (R249). -/
def shiftRowsIndex : List Nat := [0, 5, 10, 15, 4, 9, 14, 3, 8, 13, 2, 7, 12, 1, 6, 11]

/-- The input byte each output byte of `InvShiftRows` is (R249). -/
def invShiftRowsIndex : List Nat := [0, 13, 10, 7, 4, 1, 14, 11, 8, 5, 2, 15, 12, 9, 6, 3]

/-- The block whose byte `i` is byte `idx[i]` of `s`. -/
def permuteBytes (idx : List Nat) (s : Block) : Block := blockOf (idx.map fun i => (blockBytes s).getD i 0)

/-- `ShiftRows` (R249). -/
def shiftRows (s : Block) : Block := permuteBytes shiftRowsIndex s

/-- `InvShiftRows` (R249). -/
def invShiftRows (s : Block) : Block := permuteBytes invShiftRowsIndex s

/-- One column of `MixColumns` (R250). -/
def mixColumn (a0 a1 a2 a3 : Byte) : Bytes :=
  [mul8 a0 2 ^^^ mul8 a1 3 ^^^ a2 ^^^ a3,
   a0 ^^^ mul8 a1 2 ^^^ mul8 a2 3 ^^^ a3,
   a0 ^^^ a1 ^^^ mul8 a2 2 ^^^ mul8 a3 3,
   mul8 a0 3 ^^^ a1 ^^^ a2 ^^^ mul8 a3 2]

/-- One column of `InvMixColumns` (R250). -/
def invMixColumn (a0 a1 a2 a3 : Byte) : Bytes :=
  [mul8 a0 14 ^^^ mul8 a1 11 ^^^ mul8 a2 13 ^^^ mul8 a3 9,
   mul8 a0 9 ^^^ mul8 a1 14 ^^^ mul8 a2 11 ^^^ mul8 a3 13,
   mul8 a0 13 ^^^ mul8 a1 9 ^^^ mul8 a2 14 ^^^ mul8 a3 11,
   mul8 a0 11 ^^^ mul8 a1 13 ^^^ mul8 a2 9 ^^^ mul8 a3 14]

/-- A column operation on each column `4c .. 4c+3` of a state (R243, R250). -/
def onColumns (f : Byte → Byte → Byte → Byte → Bytes) : Bytes → Bytes
  | a0 :: a1 :: a2 :: a3 :: rest => f a0 a1 a2 a3 ++ onColumns f rest
  | _ => []

/-- `MixColumns` (R250). -/
def mixColumns (s : Block) : Block := blockOf (onColumns mixColumn (blockBytes s))

/-- `InvMixColumns` (R250). -/
def invMixColumns (s : Block) : Block := blockOf (onColumns invMixColumn (blockBytes s))

/-- `AddRoundKey` (R247). -/
def addRoundKey (s rk : Block) : Block := s ^^^ rk

/-- The rounds after the first `AddRoundKey` of `AesEncrypt`: every round key but the last makes a full round, the
last one a round without `MixColumns` (R251). -/
def encRounds : List Block → Block → Block
  | [], s => s
  | [rk], s => addRoundKey (shiftRows (subBytes s)) rk
  | rk :: rks, s => encRounds rks (addRoundKey (mixColumns (shiftRows (subBytes s))) rk)

/-- `AesEncrypt(K, X)` (R251). -/
def aesEncrypt (k : Bytes) (x : Block) : Block :=
  match roundKeys k with
  | [] => x
  | rk0 :: rks => encRounds rks (addRoundKey x rk0)

/-- The rounds after the first `AddRoundKey` of `AesDecrypt`, the round keys from `rk[Nr - 1]` down to `rk[0]`
(R252). -/
def decRounds : List Block → Block → Block
  | [], s => s
  | [rk], s => addRoundKey (invSubBytes (invShiftRows s)) rk
  | rk :: rks, s => decRounds rks (invMixColumns (addRoundKey (invSubBytes (invShiftRows s)) rk))

/-- `AesDecrypt(K, X)` (R252). -/
def aesDecrypt (k : Bytes) (x : Block) : Block :=
  match (roundKeys k).reverse with
  | [] => x
  | rkN :: rks => decRounds rks (addRoundKey x rkN)

/-- AES as the parameter `BC` (R240, R242). -/
def aes : Config.BlockCipher := { keyLens := [16, 24, 32], enc := aesEncrypt, dec := aesDecrypt }

end Machine
end Sys2Proof
end

