-- ==== Sys2Proof/Machine/Sha2.lean ====
section
/-! DEFINITION. SHA-256 and SHA-512 (spec 45_hash_hmac.md R271 to R275). -/

namespace Sys2Proof
namespace Machine

/-- What the two hash functions differ in (R274, R275). The number of rounds is the length of `consts`. -/
structure Sha2 (w : Nat) where
  /-- Input block size in bytes. -/
  blockLen : Nat
  /-- Size of the length field in bytes (R272). -/
  lenLen   : Nat
  bigS0    : BitVec w → BitVec w
  bigS1    : BitVec w → BitVec w
  smallS0  : BitVec w → BitVec w
  smallS1  : BitVec w → BitVec w
  init     : List (BitVec w)
  consts   : List (BitVec w)

/-- `Ch` (R271). -/
def shaCh {w : Nat} (x y z : BitVec w) : BitVec w := (x &&& y) ^^^ (~~~x &&& z)

/-- `Maj` (R271). -/
def shaMaj {w : Nat} (x y z : BitVec w) : BitVec w := (x &&& y) ^^^ (x &&& z) ^^^ (y &&& z)

/-- Message padding (R272): the byte 80, the fewest zero bytes that complete a block, the bit length. -/
def shaPad (blockLen lenLen : Nat) (m : Bytes) : Bytes :=
  let used := m.length + 1 + lenLen
  m ++ [0x80] ++ zeros ((blockLen - used % blockLen) % blockLen) ++ beBytes lenLen (8 * m.length)

/-- A block as 16 big-endian words of `w / 8` bytes (R273). -/
def shaWords (w : Nat) (b : Bytes) : List (BitVec w) :=
  (pieces (w / 8) 16 b).map fun p => BitVec.ofNat w (intOf p)

/-- `n` more words of the message schedule, the latest word first in `ws` (R274):
`W_t = s1(W_{t-2}) + W_{t-7} + s0(W_{t-15}) + W_{t-16}`. -/
def shaExtend {w : Nat} (alg : Sha2 w) : Nat → List (BitVec w) → List (BitVec w)
  | 0, ws => ws
  | n + 1, ws =>
    shaExtend alg n
      ((alg.smallS1 (ws.getD 1 0) + ws.getD 6 0 + alg.smallS0 (ws.getD 14 0) + ws.getD 15 0) :: ws)

/-- The schedule `W_0 .. W_{R-1}` of a block. -/
def shaSchedule {w : Nat} (alg : Sha2 w) (b : Bytes) : List (BitVec w) :=
  (shaExtend alg (alg.consts.length - 16) (shaWords w b).reverse).reverse

/-- The working variables of `Compress`. -/
structure ShaVars (w : Nat) where
  a : BitVec w
  b : BitVec w
  c : BitVec w
  d : BitVec w
  e : BitVec w
  f : BitVec w
  g : BitVec w
  h : BitVec w

/-- One round with `K_t` and `W_t` (R274). -/
def shaRound {w : Nat} (alg : Sha2 w) (v : ShaVars w) (kt wt : BitVec w) : ShaVars w :=
  let t1 := v.h + alg.bigS1 v.e + shaCh v.e v.f v.g + kt + wt
  let t2 := alg.bigS0 v.a + shaMaj v.a v.b v.c
  { a := t1 + t2, b := v.a, c := v.b, d := v.c, e := v.d + t1, f := v.e, g := v.f, h := v.g }

/-- The rounds, one for each pair of a constant and a schedule word. -/
def shaRounds {w : Nat} (alg : Sha2 w) : List (BitVec w) → List (BitVec w) → ShaVars w → ShaVars w
  | kt :: ks, wt :: ws, v => shaRounds alg ks ws (shaRound alg v kt wt)
  | _, _, v => v

/-- `(a, .., h) = (H_0, .., H_7)`. -/
def shaVarsOf {w : Nat} (hs : List (BitVec w)) : ShaVars w :=
  { a := hs.getD 0 0, b := hs.getD 1 0, c := hs.getD 2 0, d := hs.getD 3 0,
    e := hs.getD 4 0, f := hs.getD 5 0, g := hs.getD 6 0, h := hs.getD 7 0 }

/-- The working variables as a list, `a` first. -/
def shaVarsList {w : Nat} (v : ShaVars w) : List (BitVec w) := [v.a, v.b, v.c, v.d, v.e, v.f, v.g, v.h]

/-- `Compress` (R274). -/
def shaCompress {w : Nat} (alg : Sha2 w) (hs : List (BitVec w)) (b : Bytes) : List (BitVec w) :=
  List.zipWith (· + ·) hs (shaVarsList (shaRounds alg alg.consts (shaSchedule alg b) (shaVarsOf hs)))

/-- The hash of a message: pad, compress block by block from the initial value, write the words out big-endian
(R272 to R274). -/
def shaHash {w : Nat} (alg : Sha2 w) (m : Bytes) : Bytes :=
  let padded := shaPad alg.blockLen alg.lenLen m
  let final := (pieces alg.blockLen (padded.length / alg.blockLen) padded).foldl (shaCompress alg) alg.init
  final.flatMap fun h => beBytes (w / 8) h.toNat

/-- The words of one printed line of a table of R274 or R275: 256 bits, cut into words of `w` bits, first word first. -/
def shaLine (w line : Nat) : List (BitVec w) :=
  (List.range (256 / w)).map fun t => BitVec.ofNat w (line >>> (256 - w * (t + 1)))

/-- `H_0 .. H_7` of SHA-256, the one line of R274. -/
def sha256Init : List (BitVec 32) :=
  shaLine 32 0x6a09e667bb67ae853c6ef372a54ff53a510e527f9b05688c1f83d9ab5be0cd19

/-- `K_0 .. K_63`, the eight lines of R274. -/
def sha256Consts : List (BitVec 32) :=
  List.flatMap (shaLine 32) [
    0x428a2f9871374491b5c0fbcfe9b5dba53956c25b59f111f1923f82a4ab1c5ed5,
    0xd807aa9812835b01243185be550c7dc372be5d7480deb1fe9bdc06a7c19bf174,
    0xe49b69c1efbe47860fc19dc6240ca1cc2de92c6f4a7484aa5cb0a9dc76f988da,
    0x983e5152a831c66db00327c8bf597fc7c6e00bf3d5a7914706ca635114292967,
    0x27b70a852e1b21384d2c6dfc53380d13650a7354766a0abb81c2c92e92722c85,
    0xa2bfe8a1a81a664bc24b8b70c76c51a3d192e819d6990624f40e3585106aa070,
    0x19a4c1161e376c082748774c34b0bcb5391c0cb34ed8aa4a5b9cca4f682e6ff3,
    0x748f82ee78a5636f84c878148cc7020890befffaa4506cebbef9a3f7c67178f2]

/-- SHA-256's functions and sizes (R274). -/
def sha256Alg : Sha2 32 :=
  { blockLen := 64, lenLen := 8,
    bigS0 := fun x => x.rotateRight 2 ^^^ x.rotateRight 13 ^^^ x.rotateRight 22,
    bigS1 := fun x => x.rotateRight 6 ^^^ x.rotateRight 11 ^^^ x.rotateRight 25,
    smallS0 := fun x => x.rotateRight 7 ^^^ x.rotateRight 18 ^^^ x >>> 3,
    smallS1 := fun x => x.rotateRight 17 ^^^ x.rotateRight 19 ^^^ x >>> 10,
    init := sha256Init, consts := sha256Consts }

/-- `H_0 .. H_7` of SHA-512, the two lines of R275. -/
def sha512Init : List (BitVec 64) :=
  List.flatMap (shaLine 64) [
    0x6a09e667f3bcc908bb67ae8584caa73b3c6ef372fe94f82ba54ff53a5f1d36f1,
    0x510e527fade682d19b05688c2b3e6c1f1f83d9abfb41bd6b5be0cd19137e2179]

/-- `K_0 .. K_79`, the twenty lines of R275. -/
def sha512Consts : List (BitVec 64) :=
  List.flatMap (shaLine 64) [
    0x428a2f98d728ae227137449123ef65cdb5c0fbcfec4d3b2fe9b5dba58189dbbc,
    0x3956c25bf348b53859f111f1b605d019923f82a4af194f9bab1c5ed5da6d8118,
    0xd807aa98a303024212835b0145706fbe243185be4ee4b28c550c7dc3d5ffb4e2,
    0x72be5d74f27b896f80deb1fe3b1696b19bdc06a725c71235c19bf174cf692694,
    0xe49b69c19ef14ad2efbe4786384f25e30fc19dc68b8cd5b5240ca1cc77ac9c65,
    0x2de92c6f592b02754a7484aa6ea6e4835cb0a9dcbd41fbd476f988da831153b5,
    0x983e5152ee66dfaba831c66d2db43210b00327c898fb213fbf597fc7beef0ee4,
    0xc6e00bf33da88fc2d5a79147930aa72506ca6351e003826f142929670a0e6e70,
    0x27b70a8546d22ffc2e1b21385c26c9264d2c6dfc5ac42aed53380d139d95b3df,
    0x650a73548baf63de766a0abb3c77b2a881c2c92e47edaee692722c851482353b,
    0xa2bfe8a14cf10364a81a664bbc423001c24b8b70d0f89791c76c51a30654be30,
    0xd192e819d6ef5218d69906245565a910f40e35855771202a106aa07032bbd1b8,
    0x19a4c116b8d2d0c81e376c085141ab532748774cdf8eeb9934b0bcb5e19b48a8,
    0x391c0cb3c5c95a634ed8aa4ae3418acb5b9cca4f7763e373682e6ff3d6b2b8a3,
    0x748f82ee5defb2fc78a5636f43172f6084c87814a1f0ab728cc702081a6439ec,
    0x90befffa23631e28a4506cebde82bde9bef9a3f7b2c67915c67178f2e372532b,
    0xca273eceea26619cd186b8c721c0c207eada7dd6cde0eb1ef57d4f7fee6ed178,
    0x06f067aa72176fba0a637dc5a2c898a6113f9804bef90dae1b710b35131c471b,
    0x28db77f523047d8432caab7b40c724933c9ebe0a15c9bebc431d67c49c100d4c,
    0x4cc5d4becb3e42b6597f299cfc657e2a5fcb6fab3ad6faec6c44198c4a475817]

/-- SHA-512's functions and sizes (R275). -/
def sha512Alg : Sha2 64 :=
  { blockLen := 128, lenLen := 16,
    bigS0 := fun x => x.rotateRight 28 ^^^ x.rotateRight 34 ^^^ x.rotateRight 39,
    bigS1 := fun x => x.rotateRight 14 ^^^ x.rotateRight 18 ^^^ x.rotateRight 41,
    smallS0 := fun x => x.rotateRight 1 ^^^ x.rotateRight 8 ^^^ x >>> 7,
    smallS1 := fun x => x.rotateRight 19 ^^^ x.rotateRight 61 ^^^ x >>> 6,
    init := sha512Init, consts := sha512Consts }

/-- `SHA256(M)` (R274). -/
def sha256 (m : Bytes) : Bytes := shaHash sha256Alg m

/-- `SHA512(M)` (R275). -/
def sha512 (m : Bytes) : Bytes := shaHash sha512Alg m

/-- The default hash table (R270; 30_encoding.md R96): 1 is SHA-256, 2 is SHA-512, nothing else. -/
def defaultHashes (sel : Byte) : Option Config.HashAlg :=
  if sel = 1 then some { digestLen := 32, blockLen := 64, hash := sha256 }
  else if sel = 2 then some { digestLen := 64, blockLen := 128, hash := sha512 }
  else none

end Machine
end Sys2Proof
end

