-- ==== Sys2Proof/Machine/Params.lean ====
section
/-! DEFINITION. The instance of the engine that `exec` and `step` run: every parameter at the default of spec
00_scope.md R13 (log entry 1). With any other parameters the engine is `advance` (Machine/Engine.lean). -/

namespace Sys2Proof
namespace Machine

/-- The defaults of R13: `KEY_MAX = AKEY_MAX = 256`, `IN_MAX = 65535`, AES, and SHA-256 and SHA-512. -/
def params : Config.Params :=
  { keyMax := 256, akeyMax := 256, inMax := 65535, bc := aes, ht := defaultHashes }

end Machine
end Sys2Proof
end

