-- ==== Sys2Proof/Machine/Nonce.lean ====
section
/-! DEFINITION. The Nonce Generator and `GEN_NONCE` (spec 40_nonce_generator.md R130 to R136). -/

namespace Sys2Proof
namespace Machine

/-- `GenerateNonce(n)` with the answer the entropy source gave (R131): all or nothing; nothing is asked for when
`n = 0`. -/
def generateNonce (n : Nat) (a : Config.EntropyAnswer) : Except EngineError Bytes :=
  if n = 0 then .ok []
  else if a.ok = true ∧ a.data.length = n then .ok a.data
  else .error .randomSource

/-- `GEN_NONCE(size)` (R130) in the two engine-side steps of R303. -/
def genNonceRun (p : Config.Params) (size : Byte) (s : State) : State :=
  match s.phase with
  | .run  => s.checked p (if size = 0 then s.finishOk [] else s.need size)
  | .wait => s.resume fun a => generateNonce size.toNat a

/-- `GEN_NONCE size`. -/
def execGenNonce (size : Byte) (s : State) : Host.Outcome State Fault Refusal := .next (genNonceRun params size s)

end Machine
end Sys2Proof
end

