-- ==== Sys2Proof/Machine/Padding.lean ====
section
/-! DEFINITION. The Padding Module, `PAD` and `UNPAD` (spec 41_padding.md R140 to R144). -/

namespace Sys2Proof
namespace Machine

/-- `n`, the number of bytes `Pad` appends and the value of each (R141). -/
def padCount (len bs : Nat) : Nat := bs - len % bs

/-- `Pad(data, bs)` for `bs` in 1 to 255 (R141). -/
def padBytes (data : Bytes) (bs : Nat) : Bytes :=
  data ++ List.replicate (padCount data.length bs) (BitVec.ofNat 8 (padCount data.length bs))

/-- `Unpad(data)` (R144): only the last byte is looked at. -/
def unpadBytes (data : Bytes) : Except EngineError Bytes :=
  match data.getLast? with
  | none => .error .malformedPadding
  | some n =>
    if data.length < n.toNat then .error .malformedPadding
    else .ok (data.take (data.length - n.toNat))

/-- The result of `PAD(blockSize)` on `data` (R140). -/
def padResult (blockSize : Byte) (data : Bytes) : Except EngineError Bytes :=
  if blockSize = 0 then .error .invalidBlockSize else .ok (padBytes data blockSize.toNat)

/-- `PAD(blockSize)` (R140). -/
def padRun (p : Config.Params) (blockSize : Byte) (s : State) : State :=
  s.checked p (s.finish (padResult blockSize s.inBytes))

/-- `PAD blockSize`. -/
def execPad (blockSize : Byte) (s : State) : Host.Outcome State Fault Refusal := .next (padRun params blockSize s)

/-- `UNPAD` (R143). -/
def unpadRun (p : Config.Params) (s : State) : State := s.checked p (s.finish (unpadBytes s.inBytes))

/-- `UNPAD`. -/
def execUnpad (s : State) : Host.Outcome State Fault Refusal := .next (unpadRun params s)

end Machine
end Sys2Proof
end

