-- ==== Sys2Proof/Machine/CbcHmac.lean ====
section
/-! DEFINITION. The CBC-HMAC Codec and cipher-block-chaining mode, `CBC_ENC` and `CBC_DEC` (spec
43_cbc_hmac_codec.md R200 to R211). -/

namespace Sys2Proof
namespace Machine

/-- The loop of `CbcEncryptBlocks` from a chaining value `CV` (R205). -/
def cbcEncFrom (bc : Config.BlockCipher) (k : Bytes) : Block → List Block → List Block
  | _, [] => []
  | cv, x :: xs =>
    let c := bc.enc k (x ^^^ cv)
    c :: cbcEncFrom bc k c xs

/-- The loop of `CbcDecryptBlocks` from a chaining value `CV` (R206). -/
def cbcDecFrom (bc : Config.BlockCipher) (k : Bytes) : Block → List Block → List Block
  | _, [] => []
  | cv, c :: cs => (bc.dec k c ^^^ cv) :: cbcDecFrom bc k c cs

/-- `CbcEncryptBlocks(K, iv, P)` (R205). -/
def cbcEncryptBlocks (bc : Config.BlockCipher) (k iv pt : Bytes) : Bytes :=
  bytesOfBlocks (cbcEncFrom bc k (blockOf iv) (blocksOf pt))

/-- `CbcDecryptBlocks(K, iv, C)` (R206). -/
def cbcDecryptBlocks (bc : Config.BlockCipher) (k iv ct : Bytes) : Bytes :=
  bytesOfBlocks (cbcDecFrom bc k (blockOf iv) (blocksOf ct))

/-- `CbcHmacEncrypt(encKey, authKey, plaintext, sel)` with the answer the entropy source gave (R201). -/
def cbcHmacEncrypt (p : Config.Params) (encKey authKey pt : Bytes) (sel : Byte) (a : Config.EntropyAnswer) :
    Except EngineError Bytes :=
  match p.ht sel with
  | none => .error .unsupportedHash
  | some h =>
    match generateNonce 16 a with
    | .error e => .error e
    | .ok iv =>
      if encKey.length ∉ p.bc.keyLens then .error .cipherInitialization
      else
        let ct := cbcEncryptBlocks p.bc encKey iv (padBytes pt 16)
        .ok (serializeCbcFrame iv (hmac h authKey (iv ++ ct)) ct)

/-- `CbcHmacDecrypt(encKey, authKey, frame, sel)` (R203): the MAC is verified before `encKey` is looked at
(R209). -/
def cbcHmacDecrypt (p : Config.Params) (encKey authKey frame : Bytes) (sel : Byte) : Except EngineError Bytes :=
  match p.ht sel with
  | none => .error .unsupportedHash
  | some h =>
    match parseCbcFrame frame with
    | .error e => .error e
    | .ok f =>
      if ctEq (hmac h authKey (f.iv ++ f.ct)) f.mac = false then .error .authenticationFailed
      else if encKey.length ∉ p.bc.keyLens then .error .cipherInitialization
      else if f.ct.length = 0 ∨ f.ct.length % 16 ≠ 0 then .error .malformedCiphertext
      else unpadBytes (cbcDecryptBlocks p.bc encKey f.iv f.ct)

/-- `CBC_ENC(sel)` (R200) in the two engine-side steps of 46_system_commands.md R303. -/
def cbcEncRun (p : Config.Params) (sel : Byte) (s : State) : State :=
  match s.phase with
  | .run  => s.checked p (if p.ht sel = none then s.finishErr .unsupportedHash else s.need 16)
  | .wait => s.resume fun a => cbcHmacEncrypt p s.keyBytes s.akeyBytes s.inBytes sel a

/-- `CBC_ENC sel`. -/
def execCbcEnc (sel : Byte) (s : State) : Host.Outcome State Fault Refusal := .next (cbcEncRun params sel s)

/-- `CBC_DEC(sel)` (R202). -/
def cbcDecRun (p : Config.Params) (sel : Byte) (s : State) : State :=
  s.checked p (s.finish (cbcHmacDecrypt p s.keyBytes s.akeyBytes s.inBytes sel))

/-- `CBC_DEC sel`. -/
def execCbcDec (sel : Byte) (s : State) : Host.Outcome State Fault Refusal := .next (cbcDecRun params sel s)

end Machine
end Sys2Proof
end

