-- ==== Sys2Proof/Machine/Gcm.lean ====
section
/-! DEFINITION. The GCM Codec, Galois/Counter mode and the multiplication in GF(2^128), `GCM_ENC` and `GCM_DEC`
(spec 42_gcm_codec.md R160 to R177). -/

namespace Sys2Proof
namespace Machine

/-- The constant `R` of R166, the block `e1 00 .. 00`. -/
def gfR : Block := 0xe1000000000000000000000000000000

/-- Block bit `i` of a block: bit `7 - (i mod 8)` of byte `i div 8` (R16). -/
def blockBit (x : Block) (i : Nat) : Bool := x.getLsbD (127 - i)

/-- `V >> 1`, and `xor R` when block bit 127 was 1 (the second half of the loop body of R167). -/
def gfShift (v : Block) : Block := if blockBit v 127 = false then v >>> 1 else (v >>> 1) ^^^ gfR

/-- The loop of `GfMul` from round `i` on, `n` rounds (R167). -/
def gfLoop (x : Block) : Nat → Nat → Block → Block → Block
  | 0, _, z, _ => z
  | n + 1, i, z, v => gfLoop x n (i + 1) (if blockBit x i then z ^^^ v else z) (gfShift v)

/-- `GfMul(X, Y)` (R167). -/
def gfMul (x y : Block) : Block := gfLoop x 128 0 0 y

/-- `inc32(B)`: the last 4 bytes as a number go up by one modulo 2^32, the first 12 stay (R169). -/
def inc32 (b : Block) : Block := (b.extractLsb' 32 96 ++ (b.extractLsb' 0 32 + 1) : BitVec (96 + 32))

/-- The loop of `GHASH` from an accumulator `Y` (R170). -/
def ghashFrom (h : Block) : Block → List Block → Block
  | y, [] => y
  | y, d :: ds => ghashFrom h (gfMul (y ^^^ d) h) ds

/-- `GHASH(H, D)` for `D` a multiple of 16 bytes (R170). -/
def ghash (h : Block) (d : Bytes) : Block := ghashFrom h 0 (blocksOf d)

/-- `n` blocks of `GCTR` from the counter block `CB`; a short last block uses the first bytes of `S` (R173). -/
def gctrBlocks (bc : Config.BlockCipher) (k : Bytes) : Nat → Block → Bytes → Bytes
  | 0, _, _ => []
  | n + 1, cb, x =>
    xorBytes (x.take 16) (blockBytes (bc.enc k cb)) ++ gctrBlocks bc k n (inc32 cb) (x.drop 16)

/-- `GCTR(K, ICB, X)` (R173). -/
def gctr (bc : Config.BlockCipher) (k : Bytes) (icb : Block) (x : Bytes) : Bytes :=
  gctrBlocks bc k ((x.length + 15) / 16) icb x

/-- `J0 = nonce || 00 00 00 01` (R172). -/
def preCounter (nonce : Bytes) : Block := blockOf (nonce ++ [0, 0, 0, 1])

/-- `LenBlock(C) = be64(0) || be64(8 * len(C))` (R173). -/
def lenBlock (c : Bytes) : Bytes := beBytes 8 0 ++ beBytes 8 (8 * c.length)

/-- The string `GHASH` runs over: `C`, zeros up to a multiple of 16, the length block (R174). -/
def gcmAuthInput (c : Bytes) : Bytes := c ++ zeros ((16 - c.length % 16) % 16) ++ lenBlock c

/-- `GcmTag(K, nonce, C)` (R174). -/
def gcmTag (bc : Config.BlockCipher) (k nonce c : Bytes) : Block :=
  bc.enc k (preCounter nonce) ^^^ ghash (bc.enc k 0) (gcmAuthInput c)

/-- `GcmSeal(K, nonce, P)` (R175). -/
def gcmSeal (bc : Config.BlockCipher) (k nonce pt : Bytes) : Bytes :=
  let c := gctr bc k (inc32 (preCounter nonce)) pt
  c ++ blockBytes (gcmTag bc k nonce c)

/-- `GcmOpen(K, nonce, CT)`, `none` for `Fail` (R176): the tag is checked before anything is decrypted. -/
def gcmOpen (bc : Config.BlockCipher) (k nonce ct : Bytes) : Option Bytes :=
  if ct.length < 16 then none
  else
    let c := ct.take (ct.length - 16)
    let t := ct.drop (ct.length - 16)
    if ctEq (blockBytes (gcmTag bc k nonce c)) t = false then none
    else some (gctr bc k (inc32 (preCounter nonce)) c)

/-- The key in use: the first 16 bytes, whatever the length (R164). -/
def gcmKey (key : Bytes) : Except EngineError Bytes :=
  if key.length < 16 then .error .keyTooShort else .ok (key.take 16)

/-- `GcmEncrypt(key, plaintext)` with the answer the entropy source gave (R161). -/
def gcmEncrypt (bc : Config.BlockCipher) (key pt : Bytes) (a : Config.EntropyAnswer) : Except EngineError Bytes :=
  match gcmKey key with
  | .error e => .error e
  | .ok k =>
    match generateNonce 12 a with
    | .error e => .error e
    | .ok nonce => .ok (serializeGcmFrame nonce (gcmSeal bc k nonce pt))

/-- `GcmDecrypt(key, frame)` (R163). -/
def gcmDecrypt (bc : Config.BlockCipher) (key frame : Bytes) : Except EngineError Bytes :=
  match gcmKey key with
  | .error e => .error e
  | .ok k =>
    match parseGcmFrame frame with
    | .error e => .error e
    | .ok f =>
      match gcmOpen bc k f.nonce f.ct with
      | none => .error .authenticationFailed
      | some pt => .ok pt

/-- `GCM_ENC` (R160) in the two engine-side steps of 46_system_commands.md R303. -/
def gcmEncRun (p : Config.Params) (s : State) : State :=
  match s.phase with
  | .run  => s.checked p (if s.keyLen.toNat < 16 then s.finishErr .keyTooShort else s.need 12)
  | .wait => s.resume fun a => gcmEncrypt p.bc s.keyBytes s.inBytes a

/-- `GCM_ENC`. -/
def execGcmEnc (s : State) : Host.Outcome State Fault Refusal := .next (gcmEncRun params s)

/-- `GCM_DEC` (R162). -/
def gcmDecRun (p : Config.Params) (s : State) : State :=
  s.checked p (s.finish (gcmDecrypt p.bc s.keyBytes s.inBytes))

/-- `GCM_DEC`. -/
def execGcmDec (s : State) : Host.Outcome State Fault Refusal := .next (gcmDecRun params s)

end Machine
end Sys2Proof
end

