-- ==== Sys2Proof/Machine/System.lean ====
section
/-! DEFINITION. `CLEAR` (spec 46_system_commands.md R306). -/

namespace Sys2Proof
namespace Machine

/-- `CLEAR`: no operand, no length check, cannot fail (R306). -/
def execClear (s : State) : Host.Outcome State Fault Refusal := .next s.finishClear

end Machine
end Sys2Proof
end

