-- ==== Sys2Proof/Machine/Dispatch.lean ====
section
/-! DEFINITION. `exec`: one arm per command (spec 46_system_commands.md R303). -/

namespace Sys2Proof
namespace Machine

/-- What a command does in one engine-side step: the run step in `P_RUN`, the entropy answer step in `P_WAIT`
(R303; log entry 6). -/
def exec (i : Instr) (s : State) : Host.Outcome State Fault Refusal :=
  match i with
  | .clear => Sys2Proof.Machine.execClear s
  | .genNonce size => Sys2Proof.Machine.execGenNonce size s
  | .pad blockSize => Sys2Proof.Machine.execPad blockSize s
  | .unpad => Sys2Proof.Machine.execUnpad s
  | .gcmEnc => Sys2Proof.Machine.execGcmEnc s
  | .gcmDec => Sys2Proof.Machine.execGcmDec s
  | .cbcEnc sel => Sys2Proof.Machine.execCbcEnc sel s
  | .cbcDec sel => Sys2Proof.Machine.execCbcDec sel s

end Machine
end Sys2Proof
end

