-- ==== Sys2Proof/Machine/HostAccess.lean ====
section
/-! DEFINITION. The host's four accesses (spec 20_memory.md R60 to R66; 10_state.md R21, R30, R31). A register
number and a buffer index are natural numbers: how a bus carries them is the open parameter `BUS` (log entry 9). -/

namespace Sys2Proof
namespace Machine

/-- `HostReadReg(n)`: in every engine state (R62, R65); 0 for `n >= 8`. -/
def hostReadReg (s : State) (n : Nat) : Word :=
  match n with
  | 0 => s.cmd
  | 1 => s.statusWord
  | 2 => s.errWord
  | 3 => s.ctrlWord
  | 4 => s.keyLen
  | 5 => s.akeyLen
  | 6 => s.inLen
  | 7 => s.outLen
  | _ => 0

/-- A write that a busy engine drops: it sets `HAZ` and changes nothing else (R65). -/
def State.dropped (s : State) : State := { s with haz := true }

/-- A write to a target that a busy engine does not accept (R31, R63, R64, R65). -/
def State.unlessBusy (s accepted : State) : State := if s.engine = .busy then s.dropped else accepted

/-- `HostWriteReg(n, v)` (R63, R65). -/
def hostWriteReg (s : State) (n : Nat) (v : Word) : State :=
  match n with
  | 0 => s.unlessBusy (s.startCommand v)
  | 3 => { s with ie := v.getLsbD 0 }
  | 4 => s.unlessBusy { s with keyLen := v }
  | 5 => s.unlessBusy { s with akeyLen := v }
  | 6 => s.unlessBusy { s with inLen := v }
  | _ => s

/-- `HostReadBuf(id, i)` (R64, R65): keys read 0, and so does everything while the engine is busy. -/
def hostReadBuf (p : Config.Params) (s : State) (id i : Nat) : Byte :=
  if s.engine = .busy then 0
  else
    match id with
    | 2 => if i < p.inMax then Memory.read s.inp i else 0
    | 3 => if i < p.outMax then Memory.read s.out i else 0
    | _ => 0

/-- A byte stored below the capacity; nothing at or above it (R30, R64). -/
def storeBelow (cap : Nat) (m : Memory) (i : Nat) (v : Byte) : Memory := if i < cap then Memory.write m i v else m

/-- `HostWriteBuf(id, i, v)` (R64, R65): `OUT` and unknown ids are read only. While the engine is busy a write with id 0,
1 or 2 sets `HAZ` at any index. -/
def hostWriteBuf (p : Config.Params) (s : State) (id i : Nat) (v : Byte) : State :=
  match id with
  | 0 => s.unlessBusy { s with key := storeBelow p.keyMax s.key i v }
  | 1 => s.unlessBusy { s with akey := storeBelow p.akeyMax s.akey i v }
  | 2 => s.unlessBusy { s with inp := storeBelow p.inMax s.inp i v }
  | _ => s

end Machine
end Sys2Proof
end

