-- ==== Sys2Proof/Machine/Engine.lean ====
section
/-! DEFINITION. The steps of the three agents and of reset (spec 10_state.md R20; 46_system_commands.md R301 to R305;
40_nonce_generator.md R133; 70_reset_and_hazards.md R360), and which of them comes next. -/

namespace Sys2Proof
namespace Machine

/-- What a command does in one engine-side step of the engine with parameters `p` (00_scope.md R13): for the default
parameters it is `exec` (lemma `execAt_params`). -/
def execAt (p : Config.Params) (i : Instr) (s : State) : Host.Outcome State Fault Refusal :=
  match i with
  | .clear         => .next s.finishClear
  | .genNonce size => .next (genNonceRun p size s)
  | .pad blockSize => .next (padRun p blockSize s)
  | .unpad         => .next (unpadRun p s)
  | .gcmEnc        => .next (gcmEncRun p s)
  | .gcmDec        => .next (gcmDecRun p s)
  | .cbcEnc sel    => .next (cbcEncRun p sel s)
  | .cbcDec sel    => .next (cbcDecRun p sel s)

/-- The command word is decoded and its operation evaluated (R303); an illegal word ends with
`IllegalCommandError`. -/
def runCommand (p : Config.Params) (s : State) : Host.Outcome State Fault Refusal :=
  match decode s.cmd with
  | .error _ => .next (s.finishErr .illegalCommand)
  | .ok i    => execAt p i s

/-- The engine run step: enabled when the engine is `BUSY` in `P_RUN` (R303); otherwise nothing happens (log
entry 14). -/
def engineStep (p : Config.Params) (s : State) : Host.Outcome State Fault Refusal :=
  if s.engine = .busy ∧ s.phase = .run then runCommand p s else .next s

/-- The entropy answer step: enabled when the engine is `BUSY` in `P_WAIT` (R133). An answer nobody asked for is
ignored, and so is one to a request made before a reset, even when a later request waits (R360). -/
def entropyStep (p : Config.Params) (era : Nat) (a : Config.EntropyAnswer) (s : State) :
    Host.Outcome State Fault Refusal :=
  if s.engine = .busy ∧ s.phase = .wait ∧ era = s.resets then runCommand p { s with answer := some a } else .next s

/-- The event `e` happens. A read's value is left in `readData` (log entry 4). -/
def applyInput (p : Config.Params) (e : Input) (s : State) : Host.Outcome State Fault Refusal :=
  match e with
  | .readReg n       => .next { s with readData := hostReadReg s n }
  | .writeReg n v    => .next (hostWriteReg s n v)
  | .readBuf id i    => .next { s with readData := (hostReadBuf p s id i).setWidth 32 }
  | .writeBuf id i v => .next (hostWriteBuf p s id i v)
  | .engineTurn      => engineStep p s
  | .entropy era a   => entropyStep p era a s
  | .reset           => .next s.doReset

/-- No event is due: a busy engine takes its run step, an entropy source that was asked does as the free value says
(an answer, or none in this turn), and an engine that is not busy does nothing (R300; log entries 2 and 3). -/
def freeStep (p : Config.Params) (s : State) : Host.Outcome State Fault Refusal :=
  if s.engine = .busy ∧ s.phase = .wait then
    match Config.entropySource s.ticks with
    | none   => .next { s with ticks := s.ticks + 1 }
    | some a => entropyStep p s.resets a { s with ticks := s.ticks + 1 }
  else engineStep p s

/-- One step of the machine with parameters `p`: the next event of the script, or a free step when there is none. -/
def advance (p : Config.Params) (s : State) : Host.Outcome State Fault Refusal :=
  match s.inputs with
  | []      => freeStep p s
  | e :: es => applyInput p e { s with inputs := es }

end Machine
end Sys2Proof
end

