-- ==== Sys2Proof/Machine/Step.lean ====
section
/-! DEFINITION. The step of the machine, and how one instruction is placed so that the very next step runs it. -/

namespace Sys2Proof
namespace Machine

/-- One step of the engine with the default parameters (Machine/Engine.lean; log entry 1). -/
def step (s : State) : Host.Outcome State Fault Refusal := advance params s

/-- `s` with the command word `w` accepted (spec 46_system_commands.md R302) and nothing due before the engine's run
step, so that the very next step runs it (log entry 6). -/
def State.withFetchWord (s : State) (_nbits w : Nat) : State :=
  { s.startCommand (BitVec.ofNat 32 w) with answer := none, inputs := [] }

end Machine
end Sys2Proof
end

