-- ==== Sys2Proof/Safety.lean ====
section
/-! DEFINITION. The terms claims are stated in: what a completion leaves (spec 10_state.md R33, 46_system_commands.md
R305, 60_exceptions.md R330), the request an operation makes (40_nonce_generator.md R136), and the invariant of the
machine. -/

namespace Sys2Proof
namespace Machine

/-- The bytes a buffer holds: its byte at every index is the string's, and 0x00 past the string's end. -/
def Memory.Holds (m : Memory) (b : Bytes) : Prop := ∀ i, Memory.read m i = b.getD i 0

/-- The frame of every step of an operation: `CTRL`, and what is not the engine's, stay. -/
structure SameOutside (s t : State) : Prop where
  ie       : t.ie = s.ie
  inputs   : t.inputs = s.inputs
  readData : t.readData = s.readData
  ticks    : t.ticks = s.ticks
  resets   : t.resets = s.resets

/-- The clears of every completion (R33): every byte of the operand buffers 0, the lengths 0, every working register
0, the sequencer back in `P_RUN`, and no answer left on the port. -/
structure Wiped (t : State) : Prop where
  key      : ∀ i, Memory.read t.key i = 0
  akey     : ∀ i, Memory.read t.akey i = 0
  inp      : ∀ i, Memory.read t.inp i = 0
  keyLen   : t.keyLen = 0
  akeyLen  : t.akeyLen = 0
  inLen    : t.inLen = 0
  work     : t.work = WorkRegs.zero
  phase    : t.phase = .run
  rngN     : t.rngN = 0
  answer   : t.answer = none

/-- From `s` an operation completed normally in `t` with the result `out` (R305): `OUT` holds the result and past its
end what it held before, which is 0 since the command's start (R302). `CMD`, `CTRL` and `HAZ` are as they were. -/
structure DoneWith (s t : State) (out : Bytes) : Prop where
  engine  : t.engine = .done
  err     : t.err = none
  outLen  : t.outLen = BitVec.ofNat 32 out.length
  out     : ∀ i, Memory.read t.out i = out.getD i (Memory.read s.out i)
  cmd     : t.cmd = s.cmd
  haz     : t.haz = s.haz
  wiped   : Wiped t
  outside : SameOutside s t

/-- From `s` an operation ended in `t` with the error `e` (R330): no output at all. -/
structure FailedWith (s t : State) (e : EngineError) : Prop where
  engine  : t.engine = .error
  err     : t.err = some e
  outLen  : t.outLen = 0
  out     : ∀ i, Memory.read t.out i = 0
  cmd     : t.cmd = s.cmd
  haz     : t.haz = s.haz
  wiped   : Wiped t
  outside : SameOutside s t

/-- From `s` the engine asked for `n` random bytes in `t` and does nothing else (R303 `Need(n)`): every register,
every buffer and every working register is as it was. -/
structure WaitsFor (s t : State) (n : Byte) : Prop where
  phase   : t.phase = .wait
  rngN    : t.rngN = n
  cmd     : t.cmd = s.cmd
  engine  : t.engine = s.engine
  haz     : t.haz = s.haz
  err     : t.err = s.err
  keyLen  : t.keyLen = s.keyLen
  akeyLen : t.akeyLen = s.akeyLen
  inLen   : t.inLen = s.inLen
  outLen  : t.outLen = s.outLen
  key     : ∀ i, Memory.read t.key i = Memory.read s.key i
  akey    : ∀ i, Memory.read t.akey i = Memory.read s.akey i
  inp     : ∀ i, Memory.read t.inp i = Memory.read s.inp i
  out     : ∀ i, Memory.read t.out i = Memory.read s.out i
  work    : t.work = s.work
  answer  : t.answer = s.answer
  outside : SameOutside s t

/-- The length of the entropy request an operation makes, if it makes one (R136). -/
def drawLength : Instr → Option Byte
  | .genNonce size => if size = 0 then none else some size
  | .gcmEnc        => some 12
  | .cbcEnc _      => some 16
  | .clear | .pad _ | .unpad | .gcmDec | .cbcDec _ => none

/-- The entropy source's answer is a success for a request of `n` bytes (R132). -/
def AnswersWith (s : State) (n : Nat) (data : Bytes) : Prop :=
  s.answer = some { ok := true, data := data } ∧ data.length = n

/-- The entropy source's answer is a failure for a request of `n` bytes (R132): `ok = 0`, or not the bytes asked
for. -/
def AnswerFails (s : State) (n : Nat) : Prop :=
  ∃ a, s.answer = some a ∧ (a.ok = false ∨ a.data.length ≠ n)

/-- The part of the invariant about the four buffers: canonical form, within capacity, and nothing in `OUT` at or
above `OUT_LEN` (R30, R64, R14). -/
structure BuffersOk (p : Config.Params) (s : State) : Prop where
  key_wf   : Memory.wf s.key = true
  akey_wf  : Memory.wf s.akey = true
  inp_wf   : Memory.wf s.inp = true
  out_wf   : Memory.wf s.out = true
  key_cap  : Memory.below s.key p.keyMax = true
  akey_cap : Memory.below s.akey p.akeyMax = true
  inp_cap  : Memory.below s.inp p.inMax = true
  out_len  : Memory.below s.out s.outLen.toNat = true
  out_cap  : s.outLen.toNat ≤ p.outMax

/-- The part of the invariant about a request that is outstanding (R133, R303): the operation that runs is one that
draws, the request is of its length, and every check that comes before the draw has passed. -/
structure WaitOk (p : Config.Params) (s : State) : Prop where
  draws   : ∃ i, decode s.cmd = .ok i ∧ drawLength i = some s.rngN
  lengths : s.lengthsOk p = true
  gcm_key : decode s.cmd = .ok .gcmEnc → 16 ≤ s.keyLen.toNat
  hash    : ∀ sel, decode s.cmd = .ok (.cbcEnc sel) → p.ht sel ≠ none

/-- The invariant of the machine. -/
structure Inv (p : Config.Params) (s : State) : Prop where
  buffers  : BuffersOk p s
  /-- `ERR.code` is non-zero exactly when the state is `ERROR` (R24). -/
  err_iff  : s.err ≠ none ↔ s.engine = .error
  /-- `IDLE` is reached only by reset and `CLEAR`: the last command is `CLEAR` or none, and no write was lost since
  (R301, R306, R36). -/
  idle     : s.engine = .idle → s.cmd = 0 ∧ s.haz = false
  /-- There is a result only in `DONE` (R302, R330). -/
  result   : s.engine ≠ .done → s.out = [] ∧ s.outLen = 0
  /-- The sequencer means something only while `BUSY` (R26, R33). -/
  resting  : s.engine ≠ .busy → s.phase = .run
  /-- A request length is held only while a request is outstanding (R26, R33). -/
  running  : s.phase = .run → s.rngN = 0
  waiting  : s.engine = .busy → s.phase = .wait → WaitOk p s
  /-- Working registers are zero between steps (R33). -/
  work     : s.work = WorkRegs.zero
  /-- No answer stays on the entropy port (R133). -/
  answer   : s.answer = none

/-- Two states an operation cannot tell apart (46_system_commands.md R307): the command word, the three length
registers, the valid bytes of the three operand buffers, the sequencer and the answer agree. -/
structure SameOperands (s t : State) : Prop where
  cmd     : s.cmd = t.cmd
  keyLen  : s.keyLen = t.keyLen
  akeyLen : s.akeyLen = t.akeyLen
  inLen   : s.inLen = t.inLen
  key     : s.keyBytes = t.keyBytes
  akey    : s.akeyBytes = t.akeyBytes
  inp     : s.inBytes = t.inBytes
  phase   : s.phase = t.phase
  rngN    : s.rngN = t.rngN
  answer  : s.answer = t.answer

/-- An operation is in flight and has produced nothing yet (R302). -/
structure InFlight (s : State) : Prop where
  engine : s.engine = .busy
  err    : s.err = none
  outLen : s.outLen = 0
  out    : s.out = []

/-- Every check an operation makes before it draws random bytes has passed (46_system_commands.md R303). -/
structure ReadyToDraw (p : Config.Params) (i : Instr) (s : State) : Prop where
  gcm_key : i = .gcmEnc → 16 ≤ s.keyLen.toNat
  hash    : ∀ sel, i = .cbcEnc sel → p.ht sel ≠ none

/-- The events by which the host reaches the engine (20_memory.md R60). -/
def Input.isHostAccess : Input → Bool
  | .readReg _ | .writeReg _ _ | .readBuf _ _ | .writeBuf _ _ _ => true
  | .engineTurn | .entropy _ _ | .reset => false

end Machine
end Sys2Proof
end

