-- ==== Sys2Proof/Certificates/Slice0/Obligations.lean ====
section
/-! DEFINITION. The statements for the provers. Each docstring says which rule of the spec it formalises; a statement
about `exec` and `step` is about the default instance `params` (log entry 1), a statement that takes a parameter is
about every instance. -/

open Sys2Proof Sys2Proof.Machine

/-! ### Encoding (30_encoding.md) -/

/-- R91, R93, R97: the decoder reads every instruction back from its word, with every argument at every value, and
from no other word; so does the table's reader. -/
def Obligations.DecodeInvertsEncode : Prop :=
  (∀ (w : Word) (i : Instr), decode w = .ok i ↔ w = encode i) ∧
  (∀ i : Instr, decodeTableWord 32 (encode i).toNat = some i)

/-- R91: a word selects a row of the command map exactly when it decodes to that row's instruction, and no word
selects two rows. -/
def Obligations.RowsSelectTheirInstructions : Prop :=
  ∀ (w : Word), (∀ r ∈ commandRows, r.selects w = true ↔ ∃ i, decode w = .ok i ∧ i.mnemonic = r.mnemonic) ∧
    (∀ r ∈ commandRows, ∀ q ∈ commandRows, r.selects w = true → q.selects w = true → r = q)

/-- R95, R303: a word is illegal when `rsv` is not 0, `op` is none of the eight values, or `arg` is not 0 on an operation
without an argument. The run step of a busy engine that holds such a word ends with `IllegalCommandError`; and written to
`CMD` of an engine that is not busy the word is accepted like any other and the run step after it ends so. The run step is
the one of the engine's turn (`.engineTurn` at the head of the script) or the one of an empty script, which is the
engine's own by the model's choice (log entry 2). -/
def Obligations.IllegalWordFails : Prop :=
  ∀ (s : State) (arg op : Byte) (rsv : BitVec 16) (es : List Input),
    (rsv ≠ 0 ∨ op ∉ [0x00, 0x01, 0x02, 0x03, 0x10, 0x11, 0x20, 0x21] ∨
      (op ∈ [0x00, 0x03, 0x10, 0x11] ∧ arg ≠ 0)) →
    (s.cmd = rsv ++ arg ++ op → s.engine = .busy → s.phase = .run →
      ((s.inputs = [] ∧ es = []) ∨ s.inputs = .engineTurn :: es) →
      ∃ t, step s = .next t ∧ FailedWith { s with inputs := es } t .illegalCommand) ∧
    (s.engine ≠ .busy →
      ((s.inputs = [.writeReg 0 (rsv ++ arg ++ op)] ∧ es = []) ∨
        s.inputs = .writeReg 0 (rsv ++ arg ++ op) :: .engineTurn :: es) →
      ∃ t u, step s = .next t ∧ t.cmd = rsv ++ arg ++ op ∧ t.engine = .busy ∧
        step t = .next u ∧ FailedWith { t with inputs := es } u .illegalCommand)

/-- R97, R91, 95_test_vectors.md 2.1: words written out from the encoding. -/
def Obligations.SampleWordsDecode : Prop :=
  decode 0x00000000 = .ok .clear ∧ decode 0x00000C01 = .ok (.genNonce 12) ∧ decode 0x00001002 = .ok (.pad 16) ∧
  decode 0x00000003 = .ok .unpad ∧ decode 0x00000010 = .ok .gcmEnc ∧ decode 0x00000011 = .ok .gcmDec ∧
  decode 0x00000120 = .ok (.cbcEnc 1) ∧ decode 0x00000121 = .ok (.cbcDec 1) ∧
  decode 0x00000100 = .error .argNotZero ∧ decode 0x00000004 = .error .reservedOp ∧
  decode 0x80000010 = .error .reservedNotZero

/-! ### Frames and padding (30_encoding.md, 41_padding.md) -/

/-- R100 to R102: a GCM frame is read back, it starts with the byte 12 and is 13 bytes longer than its ciphertext
field; and whatever parses is the frame of its two fields. -/
def Obligations.GcmFrameRoundTrip : Prop :=
  (∀ nonce ct : Bytes, nonce.length = 12 →
    parseGcmFrame (serializeGcmFrame nonce ct) = .ok { nonce := nonce, ct := ct } ∧
    (serializeGcmFrame nonce ct).head? = some 12 ∧ (serializeGcmFrame nonce ct).length = 13 + ct.length) ∧
  (∀ (f : Bytes) (g : GcmFrame), parseGcmFrame f = .ok g →
    g.nonce.length = 12 ∧ serializeGcmFrame g.nonce g.ct = f)

/-- R104 to R106: a CBC-HMAC frame is read back and is 18 bytes longer than its MAC and ciphertext; and whatever
parses is the frame of its three fields. -/
def Obligations.CbcFrameRoundTrip : Prop :=
  (∀ iv mac ct : Bytes, iv.length = 16 → mac.length ≤ 255 →
    parseCbcFrame (serializeCbcFrame iv mac ct) = .ok { iv := iv, mac := mac, ct := ct } ∧
    (serializeCbcFrame iv mac ct).length = 18 + mac.length + ct.length) ∧
  (∀ (f : Bytes) (g : CbcFrame), parseCbcFrame f = .ok g →
    g.iv.length = 16 ∧ g.mac.length ≤ 255 ∧ serializeCbcFrame g.iv g.mac g.ct = f)

/-- R141: `Pad` appends `n` bytes of value `n`, `1 <= n <= bs`, and its result is the next multiple of `bs`. -/
def Obligations.PadAppendsItsCount : Prop :=
  ∀ (data : Bytes) (bs : Nat), 1 ≤ bs → bs ≤ 255 →
    ∃ n, n = bs - data.length % bs ∧ 1 ≤ n ∧ n ≤ bs ∧
      (padBytes data bs).take data.length = data ∧
      (∀ i, i < n → ((padBytes data bs).getD (data.length + i) 0).toNat = n) ∧
      (padBytes data bs).length = data.length + n ∧
      (padBytes data bs).length = bs * (data.length / bs + 1)

/-- R146: `Unpad` undoes `Pad` for every string and every block size from 1 to 255. -/
def Obligations.UnpadUndoesPad : Prop :=
  ∀ (data : Bytes) (bs : Nat), 1 ≤ bs → bs ≤ 255 → unpadBytes (padBytes data bs) = .ok data

/-! ### The block cipher and the hash functions (44_block_cipher.md, 45_hash_hmac.md) -/

/-- R245: the two tables agree with the algebraic definition, which wins where they differ. -/
def Obligations.SboxMeetsItsDefinition : Prop :=
  (∀ a b : Byte, mul8 a b = 1 → sbox a = sboxAffine b) ∧ (∀ a : Byte, a ≠ 0 → ∃ b, mul8 a b = 1) ∧
    sbox 0 = sboxAffine 0 ∧ ∀ a : Byte, invSbox (sbox a) = a

/-- R241: AES decryption undoes AES encryption, for every key of 16, 24 or 32 bytes and every block. -/
def Obligations.AesDecryptInvertsEncrypt : Prop :=
  ∀ (k : Bytes) (x : Block), (k.length = 16 ∨ k.length = 24 ∨ k.length = 32) →
    aesDecrypt k (aesEncrypt k x) = x

/-- R272: message padding appends the byte 80, the fewest zero bytes that complete a block, and the bit length. -/
def Obligations.MessagePaddingIsLeast : Prop :=
  ∀ (blockLen lenLen : Nat) (m : Bytes), 0 < blockLen →
    ∃ k, shaPad blockLen lenLen m = m ++ [0x80] ++ List.replicate k 0 ++ beBytes lenLen (8 * m.length) ∧
      (m.length + 1 + k + lenLen) % blockLen = 0 ∧
      ∀ j, (m.length + 1 + j + lenLen) % blockLen = 0 → k ≤ j

/-- R274, R275: each round constant is the first 32 (64) bits of the fractional part of the cube root of its prime,
each initial word those of the square root: with `r` the integer part, `r * 2^w + K` is the integer cube (square) root
of the prime scaled. -/
def Obligations.Sha2ConstantsAreRoots : Prop :=
  let primes := (List.range 410).filter fun n => decide (Nat.Prime n)
  (∀ t < 64, ∃ r, (r * 2 ^ 32 + (sha256Consts.getD t 0).toNat) ^ 3 ≤ primes.getD t 0 * 2 ^ 96 ∧
    primes.getD t 0 * 2 ^ 96 < (r * 2 ^ 32 + (sha256Consts.getD t 0).toNat + 1) ^ 3) ∧
  (∀ t < 80, ∃ r, (r * 2 ^ 64 + (sha512Consts.getD t 0).toNat) ^ 3 ≤ primes.getD t 0 * 2 ^ 192 ∧
    primes.getD t 0 * 2 ^ 192 < (r * 2 ^ 64 + (sha512Consts.getD t 0).toNat + 1) ^ 3) ∧
  (∀ t < 8, ∃ r, (r * 2 ^ 32 + (sha256Init.getD t 0).toNat) ^ 2 ≤ primes.getD t 0 * 2 ^ 64 ∧
    primes.getD t 0 * 2 ^ 64 < (r * 2 ^ 32 + (sha256Init.getD t 0).toNat + 1) ^ 2) ∧
  (∀ t < 8, ∃ r, (r * 2 ^ 64 + (sha512Init.getD t 0).toNat) ^ 2 ≤ primes.getD t 0 * 2 ^ 128 ∧
    primes.getD t 0 * 2 ^ 128 < (r * 2 ^ 64 + (sha512Init.getD t 0).toNat + 1) ^ 2)

/-- R13, R240, R270: the default instance meets every constraint the spec puts on its parameters. -/
def Obligations.DefaultParametersAreValid : Prop := params.Valid

/-- R276: the key HMAC works with is one block long whenever the hash meets R270, for a key of any length; a key of at
most a block is used as it is, a longer one is hashed. -/
def Obligations.HmacKeyIsOneBlock : Prop :=
  ∀ (h : Config.HashAlg) (key : Bytes), h.Valid →
    (hmacKey h key).length = h.blockLen ∧
    (key.length ≤ h.blockLen → hmacKey h key = key ++ List.replicate (h.blockLen - key.length) 0) ∧
    (h.blockLen < key.length → hmacKey h key = h.hash key ++ List.replicate (h.blockLen - h.digestLen) 0)

/-! ### Galois/Counter mode (42_gcm_codec.md) -/

/-- R168: the laws of `GfMul` and its worked values. -/
def Obligations.GfMulLaws : Prop :=
  (∀ x y, gfMul x y = gfMul y x) ∧ (∀ x w y, gfMul (x ^^^ w) y = gfMul x y ^^^ gfMul w y) ∧
  (∀ y, gfMul 0 y = 0) ∧ (∀ y, gfMul 0x80000000000000000000000000000000 y = y) ∧
  (∀ x y w, gfMul (gfMul x y) w = gfMul x (gfMul y w)) ∧
  gfMul 1 0x40000000000000000000000000000000 = 0xe1000000000000000000000000000000 ∧
  gfMul 1 1 = 0xe6080000000000000000000000000003 ∧
  gfMul 0x40000000000000000000000000000000 0x66e94bd4ef8a2c3b884cfa59ca342b2e = 0x3374a5ea77c5161dc4267d2ce51a1597 ∧
  gfMul 0x66e94bd4ef8a2c3b884cfa59ca342b2e 0x66e94bd4ef8a2c3b884cfa59ca342b2e = 0xa569901bb4b18906f5059d24465c904d

/-- R169: `inc32` leaves the first 12 bytes and adds one modulo 2^32 to the last four, read big-endian. -/
def Obligations.Inc32CountsInLastFourBytes : Prop :=
  (∀ b : Block, (blockBytes (inc32 b)).take 12 = (blockBytes b).take 12 ∧
    intOf ((blockBytes (inc32 b)).drop 12) = (intOf ((blockBytes b).drop 12) + 1) % 2 ^ 32) ∧
  inc32 0x000000000000000000000000ffffffff = 0 ∧
  inc32 0xaaaaaaaaaaaaaaaaaaaaaaaa000000ff = 0xaaaaaaaaaaaaaaaaaaaaaaaa00000100

/-- R173: `GCTR` keeps the length and is its own inverse, for every block cipher. -/
def Obligations.GctrIsItsOwnInverse : Prop :=
  ∀ (bc : Config.BlockCipher) (k : Bytes) (icb : Block) (x : Bytes),
    (gctr bc k icb x).length = x.length ∧ gctr bc k icb (gctr bc k icb x) = x

/-- R175, R176: what is sealed opens to itself, and a seal is 16 bytes longer than the plaintext. -/
def Obligations.GcmOpenInvertsSeal : Prop :=
  ∀ (bc : Config.BlockCipher) (k nonce pt : Bytes),
    gcmOpen bc k nonce (gcmSeal bc k nonce pt) = some pt ∧ (gcmSeal bc k nonce pt).length = pt.length + 16

/-- R176, R179 (a change inside the tag): with any 16 bytes but the recomputed tag, and with fewer than 16 bytes,
nothing opens. -/
def Obligations.GcmWrongTagNeverOpens : Prop :=
  ∀ (bc : Config.BlockCipher) (k nonce c t : Bytes),
    (t.length = 16 → t ≠ blockBytes (gcmTag bc k nonce c) → gcmOpen bc k nonce (c ++ t) = none) ∧
    (c.length < 16 → gcmOpen bc k nonce c = none)

/-- R164: with at least 16 key bytes only the first 16 matter, to both GCM commands. -/
def Obligations.GcmUsesSixteenKeyBytes : Prop :=
  ∀ (bc : Config.BlockCipher) (key key' text : Bytes) (a : Config.EntropyAnswer), 16 ≤ key.length →
    16 ≤ key'.length → key.take 16 = key'.take 16 →
    gcmEncrypt bc key text a = gcmEncrypt bc key' text a ∧ gcmDecrypt bc key text = gcmDecrypt bc key' text

/-- R178, and the first half of R165: for every key of at least 16 bytes, every plaintext and every successful answer
of the entropy source, `GCM_ENC` completes with a frame 29 bytes longer than the plaintext, and `GCM_DEC` of that
frame, under any key of at least 16 bytes that shares the first 16, completes with the plaintext. -/
def Obligations.GcmRoundTrip : Prop :=
  ∀ (s : State) (nonce : Bytes), s.phase = .wait → AnswersWith s 12 nonce → 16 ≤ s.keyLen.toNat →
    ∃ t frame, exec .gcmEnc s = .next t ∧ DoneWith s t frame ∧ frame.length = s.inLen.toNat + 29 ∧
      ∀ u : State, u.lengthsOk params = true → 16 ≤ u.keyLen.toNat → u.keyBytes.take 16 = s.keyBytes.take 16 →
        u.inBytes = frame → ∃ v, exec .gcmDec u = .next v ∧ DoneWith u v s.inBytes

/-! ### CBC and the MAC (43_cbc_hmac_codec.md) -/

/-- R208: as a value, `CtEq` is equality of byte strings. -/
def Obligations.CtEqIsEquality : Prop := ∀ a b : Bytes, ctEq a b = true ↔ a = b

/-- R205, R206: block chaining keeps the length and is undone, for every block cipher whose decryption undoes its
encryption. -/
def Obligations.CbcBlocksRoundTrip : Prop :=
  ∀ (bc : Config.BlockCipher) (k iv pt : Bytes), bc.Valid → k.length ∈ bc.keyLens → pt.length % 16 = 0 →
    (cbcEncryptBlocks bc k iv pt).length = pt.length ∧
    cbcDecryptBlocks bc k iv (cbcEncryptBlocks bc k iv pt) = pt

/-- R212: for every encryption key the cipher accepts, every authentication key, every plaintext, every supported
hash and every successful answer of the entropy source, `CBC_ENC` completes with a frame of the length of R105, and
`CBC_DEC` of that frame with the same keys and selector completes with the plaintext. -/
def Obligations.CbcRoundTrip : Prop :=
  ∀ (s : State) (sel : Byte) (iv : Bytes), s.phase = .wait → AnswersWith s 16 iv → (sel = 1 ∨ sel = 2) →
    (s.keyLen = 16 ∨ s.keyLen = 24 ∨ s.keyLen = 32) →
    ∃ t frame, exec (.cbcEnc sel) s = .next t ∧ DoneWith s t frame ∧
      frame.length = 18 + (if sel = 1 then 32 else 64) + 16 * (s.inLen.toNat / 16 + 1) ∧
      ∀ u : State, u.lengthsOk params = true → u.keyBytes = s.keyBytes → u.akeyBytes = s.akeyBytes →
        u.inBytes = frame → ∃ v, exec (.cbcDec sel) u = .next v ∧ DoneWith u v s.inBytes

/-- R209: when `CBC_DEC` ends with `AuthenticationFailedError`, it does so in the same state whatever the bytes of
`KEY` and the value of `KEY_LEN` (within the buffer). -/
def Obligations.AuthFailureHidesTheKey : Prop :=
  ∀ (sel : Byte) (s t : State) (key : Memory) (keyLen : Word), s.lengthsOk params = true →
    ({ s with key := key, keyLen := keyLen } : State).lengthsOk params = true →
    exec (.cbcDec sel) s = .next t → t.err = some .authenticationFailed →
    exec (.cbcDec sel) { s with key := key, keyLen := keyLen } = .next t

/-- R213 (a change inside the MAC field): a frame whose MAC is not the recomputed one fails, whatever the keys, the IV
and the ciphertext. -/
def Obligations.CbcWrongMacFails : Prop :=
  ∀ (p : Config.Params) (encKey authKey iv mac ct : Bytes) (sel : Byte) (h : Config.HashAlg), p.ht sel = some h →
    iv.length = 16 → mac.length ≤ 255 → mac ≠ hmac h authKey (iv ++ ct) →
    cbcHmacDecrypt p encKey authKey (serializeCbcFrame iv mac ct) sel = .error .authenticationFailed

/-- R134: two encryptions of the same plaintext under the same keys with different random bytes give different
frames, in both schemes. -/
def Obligations.DifferentDrawsDifferentFrames : Prop :=
  ∀ (p : Config.Params) (key akey pt f g : Bytes) (sel : Byte) (a b : Config.EntropyAnswer), a.data ≠ b.data →
    ((gcmEncrypt p.bc key pt a = .ok f → gcmEncrypt p.bc key pt b = .ok g → f ≠ g) ∧
     (cbcHmacEncrypt p key akey pt sel a = .ok f → cbcHmacEncrypt p key akey pt sel b = .ok g → f ≠ g))

/-! ### Each command (40, 41, 42, 43, 46): where it completes and with what -/

/-- R306: `CLEAR` always completes, and leaves the reset state but for `CMD` and `CTRL` (and what is not the
engine's). -/
def Obligations.ClearCompletes : Prop :=
  ∀ s : State, exec .clear s = .next { State.reset with
    cmd := s.cmd, ie := s.ie, inputs := s.inputs, readData := s.readData, ticks := s.ticks, resets := s.resets }

/-- R130, R131: `GEN_NONCE 0` completes with nothing; `GEN_NONCE size` completes with the bytes of a successful
answer. -/
def Obligations.GenNonceCompletes : Prop :=
  ∀ (size : Byte) (s : State),
    (size = 0 → s.phase = .run → s.lengthsOk params = true →
      ∃ t, exec (.genNonce size) s = .next t ∧ DoneWith s t []) ∧
    (size ≠ 0 → s.phase = .wait → ∀ data, AnswersWith s size.toNat data →
      ∃ t, exec (.genNonce size) s = .next t ∧ DoneWith s t data)

/-- R140: `PAD blockSize` with `blockSize` not 0 completes with `IN[0..IN_LEN)` and the padding. -/
def Obligations.PadCompletes : Prop :=
  ∀ (bs : Byte) (s : State) (n : Nat), bs ≠ 0 → s.lengthsOk params = true →
    n = bs.toNat - s.inLen.toNat % bs.toNat →
    ∃ t, exec (.pad bs) s = .next t ∧ DoneWith s t (s.inBytes ++ List.replicate n (BitVec.ofNat 8 n))

/-- R143, R144: `UNPAD` of a string whose last byte `n` is at most its length completes with the string less its last
`n` bytes, whatever the other removed bytes are. -/
def Obligations.UnpadCompletes : Prop :=
  ∀ (s : State) (front : Bytes) (n : Byte), s.lengthsOk params = true → s.inBytes = front ++ [n] →
    n.toNat ≤ s.inLen.toNat →
    ∃ t, exec .unpad s = .next t ∧ DoneWith s t ((front ++ [n]).take (s.inLen.toNat - n.toNat))

/-- R160, R161: `GCM_ENC`, once it has a 12-byte nonce, completes with the frame `0c || nonce || seal`. -/
def Obligations.GcmEncCompletes : Prop :=
  ∀ (s : State) (nonce : Bytes), s.phase = .wait → AnswersWith s 12 nonce → 16 ≤ s.keyLen.toNat →
    ∃ t, exec .gcmEnc s = .next t ∧
      DoneWith s t (12 :: (nonce ++ gcmSeal aes (s.keyBytes.take 16) nonce s.inBytes))

/-- R162, R163: `GCM_DEC` of a frame whose ciphertext field opens completes with the plaintext. -/
def Obligations.GcmDecCompletes : Prop :=
  ∀ (s : State) (nonce ct pt : Bytes), s.lengthsOk params = true → 16 ≤ s.keyLen.toNat → nonce.length = 12 →
    s.inBytes = 12 :: (nonce ++ ct) → gcmOpen aes (s.keyBytes.take 16) nonce ct = some pt →
    ∃ t, exec .gcmDec s = .next t ∧ DoneWith s t pt

/-- R200, R201: `CBC_ENC sel`, once it has a 16-byte IV, completes with the frame
`10 || iv || macLength || mac || ciphertext`, the MAC over `iv || ciphertext`. -/
def Obligations.CbcEncCompletes : Prop :=
  ∀ (s : State) (sel : Byte) (h : Config.HashAlg) (iv ct : Bytes), s.phase = .wait → AnswersWith s 16 iv →
    params.ht sel = some h → (s.keyLen = 16 ∨ s.keyLen = 24 ∨ s.keyLen = 32) →
    ct = cbcEncryptBlocks aes s.keyBytes iv (padBytes s.inBytes 16) →
    ∃ t, exec (.cbcEnc sel) s = .next t ∧
      DoneWith s t (16 :: (iv ++ BitVec.ofNat 8 h.digestLen :: (hmac h s.akeyBytes (iv ++ ct) ++ ct)))

/-- R202, R203: `CBC_DEC sel` of a frame whose MAC verifies and whose ciphertext is a positive multiple of 16 bytes
that unpads completes with the plaintext. -/
def Obligations.CbcDecCompletes : Prop :=
  ∀ (s : State) (sel : Byte) (h : Config.HashAlg) (iv ct pt : Bytes), s.lengthsOk params = true →
    params.ht sel = some h → (s.keyLen = 16 ∨ s.keyLen = 24 ∨ s.keyLen = 32) → iv.length = 16 →
    s.inBytes = serializeCbcFrame iv (hmac h s.akeyBytes (iv ++ ct)) ct → ct.length ≠ 0 → ct.length % 16 = 0 →
    unpadBytes (cbcDecryptBlocks aes s.keyBytes iv ct) = .ok pt →
    ∃ t, exec (.cbcDec sel) s = .next t ∧ DoneWith s t pt

/-! ### Each command: where it asks and where it fails (60_exceptions.md R325) -/

/-- R136, R303: in its first step an operation that draws asks for exactly its number of bytes, once its earlier
checks have passed, and changes nothing else; an operation that does not draw never waits. -/
def Obligations.EntropyRequests : Prop :=
  (∀ (i : Instr) (n : Byte) (s : State), drawLength i = some n → s.phase = .run → s.lengthsOk params = true →
    ReadyToDraw params i s → ∃ t, exec i s = .next t ∧ WaitsFor s t n) ∧
  (∀ (i : Instr) (s t : State), drawLength i = none → s.phase = .run → exec i s = .next t → t.phase = .run)

/-- R131, R132: a failed or short answer ends every drawing operation with `RandomSourceError`, and none of its bytes
is seen. -/
def Obligations.EntropyFailures : Prop :=
  ∀ (i : Instr) (n : Byte) (s : State), drawLength i = some n → s.phase = .wait → AnswerFails s n.toNat →
    ReadyToDraw params i s → ∃ t, exec i s = .next t ∧ FailedWith s t .randomSource

/-- R304: every operation but `CLEAR` starts with the check of the three length registers, whether or not it uses the
buffers, and ends with `OperandLengthError` when it fails. -/
def Obligations.LengthCheckComesFirst : Prop :=
  ∀ (i : Instr) (s : State), i ≠ .clear → s.phase = .run →
    (256 < s.keyLen.toNat ∨ 256 < s.akeyLen.toNat ∨ 65535 < s.inLen.toNat) →
    ∃ t, exec i s = .next t ∧ FailedWith s t .operandLength

/-- R140, R143, R144: `PAD 0`, and `UNPAD` of the empty string or of a string shorter than its last byte says. -/
def Obligations.PaddingErrors : Prop :=
  ∀ s : State, s.lengthsOk params = true →
    (∃ t, exec (.pad 0) s = .next t ∧ FailedWith s t .invalidBlockSize) ∧
    (s.inLen = 0 → ∃ t, exec .unpad s = .next t ∧ FailedWith s t .malformedPadding) ∧
    (∀ front n, s.inBytes = front ++ [n] → s.inLen.toNat < n.toNat →
      ∃ t, exec .unpad s = .next t ∧ FailedWith s t .malformedPadding)

/-- R325, the two GCM rows, with R102: a short key is reported first, then the frame, then the tag. -/
def Obligations.GcmErrorOrder : Prop :=
  ∀ s : State, s.lengthsOk params = true →
    (s.keyLen.toNat < 16 → s.phase = .run → ∃ t, exec .gcmEnc s = .next t ∧ FailedWith s t .keyTooShort) ∧
    (s.keyLen.toNat < 16 → ∃ t, exec .gcmDec s = .next t ∧ FailedWith s t .keyTooShort) ∧
    (16 ≤ s.keyLen.toNat → (s.inLen = 0 ∨ s.inBytes.head? ≠ some 12 ∨ s.inLen.toNat < 13) →
      ∃ t, exec .gcmDec s = .next t ∧ FailedWith s t .invalidNonceLength) ∧
    (16 ≤ s.keyLen.toNat → ∀ nonce ct, nonce.length = 12 → s.inBytes = 12 :: (nonce ++ ct) →
      gcmOpen aes (s.keyBytes.take 16) nonce ct = none →
      ∃ t, exec .gcmDec s = .next t ∧ FailedWith s t .authenticationFailed)

/-- R325, the row of `CBC_ENC`: the selector before the draw, the key length after it. -/
def Obligations.CbcEncErrorOrder : Prop :=
  ∀ (s : State) (sel : Byte), s.lengthsOk params = true →
    (sel ≠ 1 → sel ≠ 2 → s.phase = .run → ∃ t, exec (.cbcEnc sel) s = .next t ∧ FailedWith s t .unsupportedHash) ∧
    ((sel = 1 ∨ sel = 2) → s.phase = .wait → ∀ iv, AnswersWith s 16 iv →
      s.keyLen ≠ 16 → s.keyLen ≠ 24 → s.keyLen ≠ 32 →
      ∃ t, exec (.cbcEnc sel) s = .next t ∧ FailedWith s t .cipherInitialization)

/-- R325, the row of `CBC_DEC`, with R106: selector, IV length, MAC length, MAC, key length, ciphertext length,
padding, in this order. -/
def Obligations.CbcDecErrorOrder : Prop :=
  ∀ (s : State) (sel : Byte), s.lengthsOk params = true →
    (sel ≠ 1 → sel ≠ 2 → ∃ t, exec (.cbcDec sel) s = .next t ∧ FailedWith s t .unsupportedHash) ∧
    (∀ h, params.ht sel = some h →
      ((s.inLen = 0 ∨ s.inBytes.head? ≠ some 16 ∨ s.inLen.toNat < 17) →
        ∃ t, exec (.cbcDec sel) s = .next t ∧ FailedWith s t .invalidIVLength) ∧
      (s.inBytes.head? = some 16 →
        (s.inLen = 17 ∨ (18 ≤ s.inLen.toNat ∧ s.inLen.toNat - 18 < (s.inBytes.getD 17 0).toNat)) →
        ∃ t, exec (.cbcDec sel) s = .next t ∧ FailedWith s t .invalidMacLength) ∧
      (∀ iv mac ct, iv.length = 16 → mac.length ≤ 255 → s.inBytes = serializeCbcFrame iv mac ct →
        (mac ≠ hmac h s.akeyBytes (iv ++ ct) →
          ∃ t, exec (.cbcDec sel) s = .next t ∧ FailedWith s t .authenticationFailed) ∧
        (mac = hmac h s.akeyBytes (iv ++ ct) → s.keyLen ≠ 16 → s.keyLen ≠ 24 → s.keyLen ≠ 32 →
          ∃ t, exec (.cbcDec sel) s = .next t ∧ FailedWith s t .cipherInitialization) ∧
        (mac = hmac h s.akeyBytes (iv ++ ct) → (s.keyLen = 16 ∨ s.keyLen = 24 ∨ s.keyLen = 32) →
          (ct.length = 0 ∨ ct.length % 16 ≠ 0) →
          ∃ t, exec (.cbcDec sel) s = .next t ∧ FailedWith s t .malformedCiphertext) ∧
        (mac = hmac h s.akeyBytes (iv ++ ct) → (s.keyLen = 16 ∨ s.keyLen = 24 ∨ s.keyLen = 32) →
          ct.length ≠ 0 → ct.length % 16 = 0 →
          unpadBytes (cbcDecryptBlocks aes s.keyBytes iv ct) = .error .malformedPadding →
          ∃ t, exec (.cbcDec sel) s = .next t ∧ FailedWith s t .malformedPadding)))

/-! ### All commands -/

/-- R303, R305, R330, R33: the frame of every command but `CLEAR`. A step completes with some result, fails with some
error, asks for its number of random bytes and changes nothing else, or has no answer yet and changes nothing. When the
operand lengths fit, as the invariant has them in `P_WAIT`, a result is exactly as long as `OUT_LEN` says, and `OUT` from
there on is as it was. -/
def Obligations.CommandFrame : Prop :=
  ∀ (i : Instr) (s t : State), i ≠ .clear → exec i s = .next t →
    (∃ out, DoneWith s t out ∧
      (s.lengthsOk params = true → out.length = t.outLen.toNat ∧
        ∀ j, t.outLen.toNat ≤ j → Memory.read t.out j = Memory.read s.out j)) ∨
    (∃ e, FailedWith s t e) ∨
    (s.phase = .run ∧ ∃ n, drawLength i = some n ∧ WaitsFor s t n) ∨
    (s.phase = .wait ∧ s.answer = none ∧ t = s)

/-- R307: what a step of an operation in flight leaves depends only on the command, the three lengths, the valid
operand bytes, the sequencer and the entropy answer: not on `HAZ`, `CTRL`, bytes past the valid lengths, the working
registers or what went before. -/
def Obligations.ResultDependsOnOperandsOnly : Prop :=
  ∀ (i : Instr) (s t : State), SameOperands s t → InFlight s → InFlight t →
    ∃ s' t', exec i s = .next s' ∧ exec i t = .next t' ∧
      s'.engine = t'.engine ∧ s'.err = t'.err ∧ s'.outLen = t'.outLen ∧
      (∀ j, Memory.read s'.out j = Memory.read t'.out j) ∧ s'.phase = t'.phase ∧ s'.rngN = t'.rngN

/-! ### The machine -/

/-- R36: the state after reset, field by field, and what the host and the entropy source see of it. -/
def Obligations.ResetValues : Prop :=
  State.reset.cmd = 0 ∧ State.reset.engine = .idle ∧ State.reset.haz = false ∧ State.reset.err = none ∧
  State.reset.ie = false ∧ State.reset.keyLen = 0 ∧ State.reset.akeyLen = 0 ∧ State.reset.inLen = 0 ∧
  State.reset.outLen = 0 ∧ (∀ i, Memory.read State.reset.key i = 0) ∧ (∀ i, Memory.read State.reset.akey i = 0) ∧
  (∀ i, Memory.read State.reset.inp i = 0) ∧ (∀ i, Memory.read State.reset.out i = 0) ∧
  State.reset.work = { k := 0, rk := 0, nv := 0, hk := 0, j0 := 0, cb := 0, y := 0, tg := 0, cv := 0, hs := 0,
                       hb := 0, mc := 0 } ∧
  State.reset.phase = .run ∧ State.reset.rngN = 0 ∧ State.reset.request = none ∧ State.reset.irq = false ∧
  (∀ n, hostReadReg State.reset n = 0)

/-- R24, R26, R30, R33, R36: the state after reset meets the invariant. -/
def Obligations.ResetMeetsInvariant : Prop := Inv params State.reset

/-- R14, R24, R26, R30, R33, R133, R301: every step of the machine, whatever agent makes it, keeps the invariant. -/
def Obligations.StepKeepsInvariant : Prop :=
  ∀ s t : State, Inv params s → step s = .next t → Inv params t

/-- The machine never stops: every step answers a next state (R21, R30, R64, R65, R331: no access and no operation
ends the engine). -/
def Obligations.StepAlwaysAnswers : Prop :=
  ∀ s : State, ∃ t, step s = .next t

/-- R303, R133: a step of a busy engine runs the instruction its command word decodes to: at once when no event is due,
on the engine's turn, and with the entropy source's answer when it waits. (That a step without an event is the
engine's own is the model's choice, log entry 2.) -/
def Obligations.StepRunsTheCommand : Prop :=
  ∀ (s : State) (i : Instr), s.engine = .busy → decode s.cmd = .ok i →
    (s.phase = .run → s.inputs = [] → step s = exec i s) ∧
    (s.phase = .run → ∀ es, s.inputs = .engineTurn :: es → step s = exec i { s with inputs := es }) ∧
    (s.phase = .wait → ∀ a es, s.inputs = .entropy s.resets a :: es →
      step s = exec i { s with inputs := es, answer := some a })

/-- R301: `STATUS.state` and `phase` change only as the table says, and each change is made by the table's event: an
accepted `CMD` write, the engine run step, the entropy answer step, or reset; a `CMD` write to a busy engine changes
neither and sets `HAZ`. The run step is the engine's turn, the answer step an answer to the outstanding request; with an
empty script each is the one of a free step (the model's choice, log entries 2 and 3). -/
def Obligations.StateChangesOnlyByTheTable : Prop :=
  ∀ s t : State, Inv params s → step s = .next t →
    ((t.engine = s.engine ∧ t.phase = s.phase) ∨
     (s.engine ≠ .busy ∧ (∃ w es, s.inputs = .writeReg 0 w :: es) ∧ t.engine = .busy ∧ t.phase = .run) ∨
     (s.engine = .busy ∧ s.phase = .run ∧ (s.inputs = [] ∨ ∃ es, s.inputs = .engineTurn :: es) ∧ t.phase = .run ∧
       (t.engine = .done ∨ t.engine = .error ∨ (s.cmd = 0 ∧ t.engine = .idle))) ∨
     (s.engine = .busy ∧ s.phase = .run ∧ (s.inputs = [] ∨ ∃ es, s.inputs = .engineTurn :: es) ∧
       t.engine = .busy ∧ t.phase = .wait ∧ ∃ i, decode s.cmd = .ok i ∧ drawLength i = some t.rngN) ∨
     (s.engine = .busy ∧ s.phase = .wait ∧ (s.inputs = [] ∨ ∃ a es, s.inputs = .entropy s.resets a :: es) ∧
       (t.engine = .done ∨ t.engine = .error) ∧ t.phase = .run) ∨
     ((∃ es, s.inputs = .reset :: es) ∧ t.engine = .idle ∧ t.phase = .run)) ∧
    (s.engine = .busy → (∃ w es, s.inputs = .writeReg 0 w :: es) →
      t.engine = .busy ∧ t.phase = s.phase ∧ t.haz = true)

/-- R309, R303, R133: an operation takes at most two engine-side steps: after the engine's turn and an answer of the
entropy source it is over, whatever the answer. -/
def Obligations.OperationEndsInTwoSteps : Prop :=
  ∀ (s : State) (a : Config.EntropyAnswer) (es : List Input), s.engine = .busy → s.phase = .run →
    s.inputs = .engineTurn :: .entropy s.resets a :: es →
    ∃ t u, step s = .next t ∧ step t = .next u ∧ u.engine ≠ .busy ∧ u.inputs = es

/-- R302: an accepted command word starts an operation and wipes the last result; `HAZ`, `CTRL` and the operands
stay. -/
def Obligations.CommandStart : Prop :=
  ∀ (s : State) (w : Word) (es : List Input), s.engine ≠ .busy → s.inputs = .writeReg 0 w :: es →
    ∃ t, step s = .next t ∧ t.cmd = w ∧ t.engine = .busy ∧ t.phase = .run ∧ t.rngN = 0 ∧ t.err = none ∧
      t.outLen = 0 ∧ (∀ i, Memory.read t.out i = 0) ∧ t.haz = s.haz ∧ t.ie = s.ie ∧ t.key = s.key ∧
      t.akey = s.akey ∧ t.inp = s.inp ∧ t.keyLen = s.keyLen ∧ t.akeyLen = s.akeyLen ∧ t.inLen = s.inLen ∧
      t.inputs = es

/-- R63: a register write to an engine that is not busy: register 0 starts an operation (R302), 3 stores one bit, 4 to
6 the lengths, and every other number does nothing. -/
def Obligations.RegisterWrites : Prop :=
  ∀ (s : State) (n : Nat) (v : Word), s.engine ≠ .busy →
    (n = 0 → hostWriteReg s n v =
      { s with cmd := v, engine := .busy, phase := .run, rngN := 0, err := none, outLen := 0, out := [] }) ∧
    (n ≠ 0 → hostWriteReg s n v =
      { s with ie := if n = 3 then v.getLsbD 0 else s.ie,
               keyLen := if n = 4 then v else s.keyLen,
               akeyLen := if n = 5 then v else s.akeyLen,
               inLen := if n = 6 then v else s.inLen })

/-- R64: buffer accesses to an engine that is not busy: a byte below the capacity of `KEY`, `AKEY` or `IN` is stored
and nothing else changes; `IN` and `OUT` read back, keys and everything out of range read 0; past `OUT_LEN` the result
buffer reads 0. -/
def Obligations.BufferAccesses : Prop :=
  ∀ (s : State) (id i : Nat), s.engine ≠ .busy →
    (∀ v t, t = hostWriteBuf params s id i v →
      t = { s with key := t.key, akey := t.akey, inp := t.inp } ∧
      (∀ j, Memory.read t.key j = if id = 0 ∧ j = i ∧ i < 256 then v else Memory.read s.key j) ∧
      (∀ j, Memory.read t.akey j = if id = 1 ∧ j = i ∧ i < 256 then v else Memory.read s.akey j) ∧
      (∀ j, Memory.read t.inp j = if id = 2 ∧ j = i ∧ i < 65535 then v else Memory.read s.inp j)) ∧
    hostReadBuf params s id i =
      (if id = 2 ∧ i < 65535 then Memory.read s.inp i
       else if id = 3 ∧ i < 65790 then Memory.read s.out i else 0) ∧
    (Inv params s → s.outLen.toNat ≤ i → hostReadBuf params s 3 i = 0)

/-- R65: accesses to a busy engine: writes to `CMD`, the operand lengths and the operand buffers set `HAZ` and change
nothing else, `CTRL.IE` is written, other writes do nothing, and every buffer reads 0. -/
def Obligations.BusyAccesses : Prop :=
  ∀ s : State, s.engine = .busy →
    (∀ n v, hostWriteReg s n v =
      if n = 0 ∨ n = 4 ∨ n = 5 ∨ n = 6 then { s with haz := true }
      else if n = 3 then { s with ie := v.getLsbD 0 } else s) ∧
    (∀ id i v, hostWriteBuf params s id i v = if id < 3 then { s with haz := true } else s) ∧
    (∀ id i, hostReadBuf params s id i = 0)

/-- R62, R66: in every engine state a read of a register or a buffer changes nothing of the engine; what it returns is left for the host
(log entry 4). -/
def Obligations.ReadsChangeNothing : Prop :=
  ∀ (s : State) (n id i : Nat) (es : List Input),
    (s.inputs = .readReg n :: es → step s = .next { s with inputs := es, readData := hostReadReg s n }) ∧
    (s.inputs = .readBuf id i :: es →
      step s = .next { s with inputs := es, readData := (hostReadBuf params s id i).setWidth 32 })

/-- R21, R62, R23, R24, R25, R320: what a read of each register returns, in every engine state: the stored words, and
the words of `STATUS`, `ERR` and `CTRL` field by field, reserved bits 0; 0 for a number with no register. -/
def Obligations.RegisterFields : Prop :=
  ∀ s : State,
    hostReadReg s 0 = s.cmd ∧
    (hostReadReg s 1).toNat = (match s.engine with | .idle => 0 | .busy => 1 | .done => 2 | .error => 3) +
      (if s.haz then 4 else 0) ∧
    (hostReadReg s 2).toNat = (match s.err with
      | none => 0
      | some .keyTooShort => 1 | some .invalidNonceLength => 2 | some .invalidIVLength => 3
      | some .invalidMacLength => 4 | some .authenticationFailed => 5 | some .randomSource => 6
      | some .cipherInitialization => 7 | some .illegalCommand => 16 | some .operandLength => 17
      | some .unsupportedHash => 18 | some .invalidBlockSize => 19 | some .malformedCiphertext => 20
      | some .malformedPadding => 21) ∧
    (hostReadReg s 3).toNat = (if s.ie then 1 else 0) ∧
    hostReadReg s 4 = s.keyLen ∧ hostReadReg s 5 = s.akeyLen ∧ hostReadReg s 6 = s.inLen ∧
    hostReadReg s 7 = s.outLen ∧ (∀ n, 8 ≤ n → hostReadReg s n = 0)

/-- R340: the interrupt output is high exactly when it is enabled and the state is `DONE` or `ERROR`; an accepted
command word, `CLEAR` and reset lower it. -/
def Obligations.InterruptIsALevel : Prop :=
  ∀ (s : State) (w : Word),
    (s.irq = true ↔ s.ie = true ∧ (s.engine = .done ∨ s.engine = .error)) ∧
    (s.engine ≠ .busy → (hostWriteReg s 0 w).irq = false) ∧
    (∀ t, exec .clear s = .next t → t.irq = false) ∧ s.doReset.irq = false

/-- R360, R133: reset in any state leaves the reset state (but for what is not the engine's, log entries 8 and 16); and
an answer of the entropy source is ignored when no request waits for it, and when it answers a request made before a
reset, even while a later request waits. -/
def Obligations.ResetAndLateAnswers : Prop :=
  ∀ (s : State) (es : List Input),
    (s.inputs = .reset :: es →
      step s = .next { State.reset with
        inputs := es, readData := s.readData, ticks := s.ticks, resets := s.resets + 1 }) ∧
    (∀ era a, s.inputs = .entropy era a :: es → (¬ (s.engine = .busy ∧ s.phase = .wait) ∨ era ≠ s.resets) →
      step s = .next { s with inputs := es })

/-- R65, R135, R76: nothing the host does to a busy engine changes or ends the operation in flight; only `HAZ`,
`CTRL.IE` and what the host reads can change. -/
def Obligations.HostCannotDisturbOperation : Prop :=
  ∀ (s : State) (e : Input) (es : List Input), s.engine = .busy → s.inputs = e :: es → e.isHostAccess = true →
    ∃ t, step s = .next t ∧
      t = { s with inputs := es, haz := t.haz, ie := t.ie, readData := t.readData }
end

