-- ==== Sys2Proof/Laws/Bytes.lean ====
section
/-! SUPPORT. Lengths and round trips of byte strings and blocks. -/

namespace Sys2Proof
namespace Machine

@[simp] theorem length_beBytes (n v : Nat) : (beBytes n v).length = n := by simp [beBytes]

@[simp] theorem length_blockBytes (x : Block) : (blockBytes x).length = 16 := by simp [blockBytes]

@[simp] theorem length_zeros (n : Nat) : (zeros n).length = n := by simp [zeros]

@[simp] theorem length_xorBytes (a b : Bytes) : (xorBytes a b).length = min a.length b.length := by
  simp [xorBytes]

@[simp] theorem length_pieces (n m : Nat) (s : Bytes) : (pieces n m s).length = m := by
  induction m generalizing s with
  | zero => rfl
  | succ m ih => simp [pieces, ih]

@[simp] theorem length_blocksOf (s : Bytes) : (blocksOf s).length = s.length / 16 := by simp [blocksOf]

@[simp] theorem length_bytesOfBlocks (bs : List Block) : (bytesOfBlocks bs).length = 16 * bs.length := by
  induction bs with
  | nil => rfl
  | cons b bs ih =>
    have : bytesOfBlocks (b :: bs) = blockBytes b ++ bytesOfBlocks bs := rfl
    rw [this, List.length_append, ih, length_blockBytes, List.length_cons]; omega

/-- Reading a big-endian number on from an accumulator. -/
theorem intOf_foldl (acc : Nat) (s : Bytes) :
    s.foldl (fun acc b => acc * 256 + b.toNat) acc = acc * 256 ^ s.length + intOf s := by
  induction s generalizing acc with
  | nil => simp [intOf]
  | cons b s ih =>
    have h : intOf (b :: s) = s.foldl (fun acc b => acc * 256 + b.toNat) b.toNat := by simp [intOf]
    rw [List.foldl_cons, ih, h, ih b.toNat, List.length_cons, pow_succ]; ring

theorem intOf_append (a b : Bytes) : intOf (a ++ b) = intOf a * 256 ^ b.length + intOf b := by
  have h : intOf (a ++ b) = b.foldl (fun acc b => acc * 256 + b.toNat) (intOf a) := by simp [intOf]
  rw [h, intOf_foldl]

/-- A string of `n` bytes is a number below `256^n`. -/
theorem intOf_lt (s : Bytes) : intOf s < 256 ^ s.length := by
  induction s with
  | nil => simp [intOf]
  | cons b s ih =>
    have h := intOf_append [b] s
    have hb : intOf [b] = b.toNat := by simp [intOf]
    rw [List.singleton_append, hb] at h
    rw [h, List.length_cons, pow_succ]
    have := b.isLt
    nlinarith [Nat.pow_pos (n := s.length) (show 0 < 256 by norm_num)]

/-- The last byte of an encoding is the number modulo 256, the others encode the rest. -/
theorem beBytes_succ (n v : Nat) : beBytes (n + 1) v = beBytes n (v / 256) ++ [BitVec.ofNat 8 v] := by
  unfold beBytes
  rw [List.range_succ, List.map_append]
  congr 1
  · apply List.map_congr_left
    intro i hi
    have hi' := List.mem_range.mp hi
    have e : 8 * (n + 1 - 1 - i) = 8 + 8 * (n - 1 - i) := by omega
    rw [e, Nat.shiftRight_add, Nat.shiftRight_eq_div_pow v 8]
  · simp

/-- Reading back an encoding of a number. -/
theorem intOf_beBytes (n v : Nat) : intOf (beBytes n v) = v % 256 ^ n := by
  induction n generalizing v with
  | zero => simp [beBytes, intOf, Nat.mod_one]
  | succ n ih =>
    have h1 : intOf [BitVec.ofNat 8 v] = v % 256 := by simp [intOf]
    rw [beBytes_succ, intOf_append, ih, h1, List.length_singleton, pow_one, pow_succ, Nat.mul_comm (256 ^ n) 256,
      Nat.mod_mul]
    ring

/-- Encoding a number that was read from `n` bytes gives the bytes back. -/
theorem beBytes_intOf (s : Bytes) : beBytes s.length (intOf s) = s := by
  induction s using List.reverseRecOn with
  | nil => rfl
  | append_singleton s b ih =>
    have hb : intOf [b] = b.toNat := by simp [intOf]
    have hlt := b.isLt
    have h : intOf (s ++ [b]) = intOf s * 256 + b.toNat := by rw [intOf_append, hb]; simp
    rw [List.length_append, List.length_singleton, beBytes_succ, h,
      show (intOf s * 256 + b.toNat) / 256 = intOf s by omega, ih]
    congr 2
    apply BitVec.eq_of_toNat_eq
    simp; omega

@[simp] theorem blockOf_blockBytes (x : Block) : blockOf (blockBytes x) = x := by
  apply BitVec.eq_of_toNat_eq
  have := x.isLt
  simp only [blockOf, blockBytes, BitVec.toNat_ofNat, intOf_beBytes]
  rw [Nat.mod_mod_of_dvd _ (by norm_num)]
  omega

theorem blockBytes_blockOf (s : Bytes) (h : s.length = 16) : blockBytes (blockOf s) = s := by
  have hlt := intOf_lt s
  rw [h] at hlt
  unfold blockBytes blockOf
  rw [BitVec.toNat_ofNat, Nat.mod_eq_of_lt (lt_of_lt_of_eq hlt (by norm_num))]
  exact h ▸ beBytes_intOf s

@[simp] theorem length_readBytes (m : Memory) (off n : Nat) : (Memory.readBytes m off n).length = n := by
  simp [Memory.readBytes]

@[simp] theorem length_keyBytes (s : State) : s.keyBytes.length = s.keyLen.toNat := length_readBytes _ _ _

@[simp] theorem length_akeyBytes (s : State) : s.akeyBytes.length = s.akeyLen.toNat := length_readBytes _ _ _

@[simp] theorem length_inBytes (s : State) : s.inBytes.length = s.inLen.toNat := length_readBytes _ _ _

@[simp] theorem length_cbcEncFrom (bc : Config.BlockCipher) (k : Bytes) (cv : Block) (xs : List Block) :
    (cbcEncFrom bc k cv xs).length = xs.length := by
  induction xs generalizing cv with
  | nil => rfl
  | cons x xs ih => simp [cbcEncFrom, ih]

@[simp] theorem length_cbcDecFrom (bc : Config.BlockCipher) (k : Bytes) (cv : Block) (cs : List Block) :
    (cbcDecFrom bc k cv cs).length = cs.length := by
  induction cs generalizing cv with
  | nil => rfl
  | cons c cs ih => simp [cbcDecFrom, ih]

theorem length_gctrBlocks (bc : Config.BlockCipher) (k : Bytes) (n : Nat) (cb : Block) (x : Bytes) :
    (gctrBlocks bc k n cb x).length = min (16 * n) x.length := by
  induction n generalizing cb x with
  | zero => simp [gctrBlocks]
  | succ n ih =>
    simp only [gctrBlocks, List.length_append, length_xorBytes, length_blockBytes, List.length_take, ih,
      List.length_drop]
    omega

/-- `GCTR` keeps the length. -/
@[simp] theorem length_gctr (bc : Config.BlockCipher) (k : Bytes) (icb : Block) (x : Bytes) :
    (gctr bc k icb x).length = x.length := by
  rw [gctr, length_gctrBlocks]; omega

end Machine
end Sys2Proof
end

