-- ==== Sys2Proof/Laws/State.lean ====
section
/-! SUPPORT. What each named update of the state leaves in each field: one lemma a field and update, true by `rfl`, so
that no later proof unfolds a record update. -/

namespace Sys2Proof
namespace Machine

variable (s : State)


@[simp] theorem State.clearOperands_cmd : s.clearOperands.cmd = s.cmd := rfl
@[simp] theorem State.clearOperands_engine : s.clearOperands.engine = s.engine := rfl
@[simp] theorem State.clearOperands_haz : s.clearOperands.haz = s.haz := rfl
@[simp] theorem State.clearOperands_err : s.clearOperands.err = s.err := rfl
@[simp] theorem State.clearOperands_ie : s.clearOperands.ie = s.ie := rfl
@[simp] theorem State.clearOperands_keyLen : s.clearOperands.keyLen = 0 := rfl
@[simp] theorem State.clearOperands_akeyLen : s.clearOperands.akeyLen = 0 := rfl
@[simp] theorem State.clearOperands_inLen : s.clearOperands.inLen = 0 := rfl
@[simp] theorem State.clearOperands_outLen : s.clearOperands.outLen = s.outLen := rfl
@[simp] theorem State.clearOperands_key : s.clearOperands.key = [] := rfl
@[simp] theorem State.clearOperands_akey : s.clearOperands.akey = [] := rfl
@[simp] theorem State.clearOperands_inp : s.clearOperands.inp = [] := rfl
@[simp] theorem State.clearOperands_out : s.clearOperands.out = s.out := rfl
@[simp] theorem State.clearOperands_phase : s.clearOperands.phase = .run := rfl
@[simp] theorem State.clearOperands_rngN : s.clearOperands.rngN = 0 := rfl
@[simp] theorem State.clearOperands_work : s.clearOperands.work = WorkRegs.zero := rfl
@[simp] theorem State.clearOperands_answer : s.clearOperands.answer = none := rfl
@[simp] theorem State.clearOperands_inputs : s.clearOperands.inputs = s.inputs := rfl
@[simp] theorem State.clearOperands_readData : s.clearOperands.readData = s.readData := rfl
@[simp] theorem State.clearOperands_ticks : s.clearOperands.ticks = s.ticks := rfl
@[simp] theorem State.clearOperands_resets : s.clearOperands.resets = s.resets := rfl

@[simp] theorem State.finishOk_cmd (b : Bytes) : (s.finishOk b).cmd = s.cmd := rfl
@[simp] theorem State.finishOk_engine (b : Bytes) : (s.finishOk b).engine = .done := rfl
@[simp] theorem State.finishOk_haz (b : Bytes) : (s.finishOk b).haz = s.haz := rfl
@[simp] theorem State.finishOk_err (b : Bytes) : (s.finishOk b).err = none := rfl
@[simp] theorem State.finishOk_ie (b : Bytes) : (s.finishOk b).ie = s.ie := rfl
@[simp] theorem State.finishOk_keyLen (b : Bytes) : (s.finishOk b).keyLen = 0 := rfl
@[simp] theorem State.finishOk_akeyLen (b : Bytes) : (s.finishOk b).akeyLen = 0 := rfl
@[simp] theorem State.finishOk_inLen (b : Bytes) : (s.finishOk b).inLen = 0 := rfl
@[simp] theorem State.finishOk_outLen (b : Bytes) : (s.finishOk b).outLen = BitVec.ofNat 32 b.length := rfl
@[simp] theorem State.finishOk_key (b : Bytes) : (s.finishOk b).key = [] := rfl
@[simp] theorem State.finishOk_akey (b : Bytes) : (s.finishOk b).akey = [] := rfl
@[simp] theorem State.finishOk_inp (b : Bytes) : (s.finishOk b).inp = [] := rfl
@[simp] theorem State.finishOk_out (b : Bytes) : (s.finishOk b).out = Memory.writeBytes s.out 0 b := rfl
@[simp] theorem State.finishOk_phase (b : Bytes) : (s.finishOk b).phase = .run := rfl
@[simp] theorem State.finishOk_rngN (b : Bytes) : (s.finishOk b).rngN = 0 := rfl
@[simp] theorem State.finishOk_work (b : Bytes) : (s.finishOk b).work = WorkRegs.zero := rfl
@[simp] theorem State.finishOk_answer (b : Bytes) : (s.finishOk b).answer = none := rfl
@[simp] theorem State.finishOk_inputs (b : Bytes) : (s.finishOk b).inputs = s.inputs := rfl
@[simp] theorem State.finishOk_readData (b : Bytes) : (s.finishOk b).readData = s.readData := rfl
@[simp] theorem State.finishOk_ticks (b : Bytes) : (s.finishOk b).ticks = s.ticks := rfl
@[simp] theorem State.finishOk_resets (b : Bytes) : (s.finishOk b).resets = s.resets := rfl

@[simp] theorem State.finishErr_cmd (e : EngineError) : (s.finishErr e).cmd = s.cmd := rfl
@[simp] theorem State.finishErr_engine (e : EngineError) : (s.finishErr e).engine = .error := rfl
@[simp] theorem State.finishErr_haz (e : EngineError) : (s.finishErr e).haz = s.haz := rfl
@[simp] theorem State.finishErr_err (e : EngineError) : (s.finishErr e).err = some e := rfl
@[simp] theorem State.finishErr_ie (e : EngineError) : (s.finishErr e).ie = s.ie := rfl
@[simp] theorem State.finishErr_keyLen (e : EngineError) : (s.finishErr e).keyLen = 0 := rfl
@[simp] theorem State.finishErr_akeyLen (e : EngineError) : (s.finishErr e).akeyLen = 0 := rfl
@[simp] theorem State.finishErr_inLen (e : EngineError) : (s.finishErr e).inLen = 0 := rfl
@[simp] theorem State.finishErr_outLen (e : EngineError) : (s.finishErr e).outLen = 0 := rfl
@[simp] theorem State.finishErr_key (e : EngineError) : (s.finishErr e).key = [] := rfl
@[simp] theorem State.finishErr_akey (e : EngineError) : (s.finishErr e).akey = [] := rfl
@[simp] theorem State.finishErr_inp (e : EngineError) : (s.finishErr e).inp = [] := rfl
@[simp] theorem State.finishErr_out (e : EngineError) : (s.finishErr e).out = [] := rfl
@[simp] theorem State.finishErr_phase (e : EngineError) : (s.finishErr e).phase = .run := rfl
@[simp] theorem State.finishErr_rngN (e : EngineError) : (s.finishErr e).rngN = 0 := rfl
@[simp] theorem State.finishErr_work (e : EngineError) : (s.finishErr e).work = WorkRegs.zero := rfl
@[simp] theorem State.finishErr_answer (e : EngineError) : (s.finishErr e).answer = none := rfl
@[simp] theorem State.finishErr_inputs (e : EngineError) : (s.finishErr e).inputs = s.inputs := rfl
@[simp] theorem State.finishErr_readData (e : EngineError) : (s.finishErr e).readData = s.readData := rfl
@[simp] theorem State.finishErr_ticks (e : EngineError) : (s.finishErr e).ticks = s.ticks := rfl
@[simp] theorem State.finishErr_resets (e : EngineError) : (s.finishErr e).resets = s.resets := rfl

@[simp] theorem State.finishClear_cmd : s.finishClear.cmd = s.cmd := rfl
@[simp] theorem State.finishClear_engine : s.finishClear.engine = .idle := rfl
@[simp] theorem State.finishClear_haz : s.finishClear.haz = false := rfl
@[simp] theorem State.finishClear_err : s.finishClear.err = none := rfl
@[simp] theorem State.finishClear_ie : s.finishClear.ie = s.ie := rfl
@[simp] theorem State.finishClear_keyLen : s.finishClear.keyLen = 0 := rfl
@[simp] theorem State.finishClear_akeyLen : s.finishClear.akeyLen = 0 := rfl
@[simp] theorem State.finishClear_inLen : s.finishClear.inLen = 0 := rfl
@[simp] theorem State.finishClear_outLen : s.finishClear.outLen = 0 := rfl
@[simp] theorem State.finishClear_key : s.finishClear.key = [] := rfl
@[simp] theorem State.finishClear_akey : s.finishClear.akey = [] := rfl
@[simp] theorem State.finishClear_inp : s.finishClear.inp = [] := rfl
@[simp] theorem State.finishClear_out : s.finishClear.out = [] := rfl
@[simp] theorem State.finishClear_phase : s.finishClear.phase = .run := rfl
@[simp] theorem State.finishClear_rngN : s.finishClear.rngN = 0 := rfl
@[simp] theorem State.finishClear_work : s.finishClear.work = WorkRegs.zero := rfl
@[simp] theorem State.finishClear_answer : s.finishClear.answer = none := rfl
@[simp] theorem State.finishClear_inputs : s.finishClear.inputs = s.inputs := rfl
@[simp] theorem State.finishClear_readData : s.finishClear.readData = s.readData := rfl
@[simp] theorem State.finishClear_ticks : s.finishClear.ticks = s.ticks := rfl
@[simp] theorem State.finishClear_resets : s.finishClear.resets = s.resets := rfl

@[simp] theorem State.startCommand_cmd (w : Word) : (s.startCommand w).cmd = w := rfl
@[simp] theorem State.startCommand_engine (w : Word) : (s.startCommand w).engine = .busy := rfl
@[simp] theorem State.startCommand_haz (w : Word) : (s.startCommand w).haz = s.haz := rfl
@[simp] theorem State.startCommand_err (w : Word) : (s.startCommand w).err = none := rfl
@[simp] theorem State.startCommand_ie (w : Word) : (s.startCommand w).ie = s.ie := rfl
@[simp] theorem State.startCommand_keyLen (w : Word) : (s.startCommand w).keyLen = s.keyLen := rfl
@[simp] theorem State.startCommand_akeyLen (w : Word) : (s.startCommand w).akeyLen = s.akeyLen := rfl
@[simp] theorem State.startCommand_inLen (w : Word) : (s.startCommand w).inLen = s.inLen := rfl
@[simp] theorem State.startCommand_outLen (w : Word) : (s.startCommand w).outLen = 0 := rfl
@[simp] theorem State.startCommand_key (w : Word) : (s.startCommand w).key = s.key := rfl
@[simp] theorem State.startCommand_akey (w : Word) : (s.startCommand w).akey = s.akey := rfl
@[simp] theorem State.startCommand_inp (w : Word) : (s.startCommand w).inp = s.inp := rfl
@[simp] theorem State.startCommand_out (w : Word) : (s.startCommand w).out = [] := rfl
@[simp] theorem State.startCommand_phase (w : Word) : (s.startCommand w).phase = .run := rfl
@[simp] theorem State.startCommand_rngN (w : Word) : (s.startCommand w).rngN = 0 := rfl
@[simp] theorem State.startCommand_work (w : Word) : (s.startCommand w).work = s.work := rfl
@[simp] theorem State.startCommand_answer (w : Word) : (s.startCommand w).answer = s.answer := rfl
@[simp] theorem State.startCommand_inputs (w : Word) : (s.startCommand w).inputs = s.inputs := rfl
@[simp] theorem State.startCommand_readData (w : Word) : (s.startCommand w).readData = s.readData := rfl
@[simp] theorem State.startCommand_ticks (w : Word) : (s.startCommand w).ticks = s.ticks := rfl
@[simp] theorem State.startCommand_resets (w : Word) : (s.startCommand w).resets = s.resets := rfl

@[simp] theorem State.need_cmd (n : BitVec 8) : (s.need n).cmd = s.cmd := rfl
@[simp] theorem State.need_engine (n : BitVec 8) : (s.need n).engine = s.engine := rfl
@[simp] theorem State.need_haz (n : BitVec 8) : (s.need n).haz = s.haz := rfl
@[simp] theorem State.need_err (n : BitVec 8) : (s.need n).err = s.err := rfl
@[simp] theorem State.need_ie (n : BitVec 8) : (s.need n).ie = s.ie := rfl
@[simp] theorem State.need_keyLen (n : BitVec 8) : (s.need n).keyLen = s.keyLen := rfl
@[simp] theorem State.need_akeyLen (n : BitVec 8) : (s.need n).akeyLen = s.akeyLen := rfl
@[simp] theorem State.need_inLen (n : BitVec 8) : (s.need n).inLen = s.inLen := rfl
@[simp] theorem State.need_outLen (n : BitVec 8) : (s.need n).outLen = s.outLen := rfl
@[simp] theorem State.need_key (n : BitVec 8) : (s.need n).key = s.key := rfl
@[simp] theorem State.need_akey (n : BitVec 8) : (s.need n).akey = s.akey := rfl
@[simp] theorem State.need_inp (n : BitVec 8) : (s.need n).inp = s.inp := rfl
@[simp] theorem State.need_out (n : BitVec 8) : (s.need n).out = s.out := rfl
@[simp] theorem State.need_phase (n : BitVec 8) : (s.need n).phase = .wait := rfl
@[simp] theorem State.need_rngN (n : BitVec 8) : (s.need n).rngN = n := rfl
@[simp] theorem State.need_work (n : BitVec 8) : (s.need n).work = s.work := rfl
@[simp] theorem State.need_answer (n : BitVec 8) : (s.need n).answer = s.answer := rfl
@[simp] theorem State.need_inputs (n : BitVec 8) : (s.need n).inputs = s.inputs := rfl
@[simp] theorem State.need_readData (n : BitVec 8) : (s.need n).readData = s.readData := rfl
@[simp] theorem State.need_ticks (n : BitVec 8) : (s.need n).ticks = s.ticks := rfl
@[simp] theorem State.need_resets (n : BitVec 8) : (s.need n).resets = s.resets := rfl

@[simp] theorem State.dropped_cmd : s.dropped.cmd = s.cmd := rfl
@[simp] theorem State.dropped_engine : s.dropped.engine = s.engine := rfl
@[simp] theorem State.dropped_haz : s.dropped.haz = true := rfl
@[simp] theorem State.dropped_err : s.dropped.err = s.err := rfl
@[simp] theorem State.dropped_ie : s.dropped.ie = s.ie := rfl
@[simp] theorem State.dropped_keyLen : s.dropped.keyLen = s.keyLen := rfl
@[simp] theorem State.dropped_akeyLen : s.dropped.akeyLen = s.akeyLen := rfl
@[simp] theorem State.dropped_inLen : s.dropped.inLen = s.inLen := rfl
@[simp] theorem State.dropped_outLen : s.dropped.outLen = s.outLen := rfl
@[simp] theorem State.dropped_key : s.dropped.key = s.key := rfl
@[simp] theorem State.dropped_akey : s.dropped.akey = s.akey := rfl
@[simp] theorem State.dropped_inp : s.dropped.inp = s.inp := rfl
@[simp] theorem State.dropped_out : s.dropped.out = s.out := rfl
@[simp] theorem State.dropped_phase : s.dropped.phase = s.phase := rfl
@[simp] theorem State.dropped_rngN : s.dropped.rngN = s.rngN := rfl
@[simp] theorem State.dropped_work : s.dropped.work = s.work := rfl
@[simp] theorem State.dropped_answer : s.dropped.answer = s.answer := rfl
@[simp] theorem State.dropped_inputs : s.dropped.inputs = s.inputs := rfl
@[simp] theorem State.dropped_readData : s.dropped.readData = s.readData := rfl
@[simp] theorem State.dropped_ticks : s.dropped.ticks = s.ticks := rfl
@[simp] theorem State.dropped_resets : s.dropped.resets = s.resets := rfl

@[simp] theorem State.doReset_cmd : s.doReset.cmd = State.reset.cmd := rfl
@[simp] theorem State.doReset_engine : s.doReset.engine = State.reset.engine := rfl
@[simp] theorem State.doReset_haz : s.doReset.haz = State.reset.haz := rfl
@[simp] theorem State.doReset_err : s.doReset.err = State.reset.err := rfl
@[simp] theorem State.doReset_ie : s.doReset.ie = State.reset.ie := rfl
@[simp] theorem State.doReset_keyLen : s.doReset.keyLen = State.reset.keyLen := rfl
@[simp] theorem State.doReset_akeyLen : s.doReset.akeyLen = State.reset.akeyLen := rfl
@[simp] theorem State.doReset_inLen : s.doReset.inLen = State.reset.inLen := rfl
@[simp] theorem State.doReset_outLen : s.doReset.outLen = State.reset.outLen := rfl
@[simp] theorem State.doReset_key : s.doReset.key = State.reset.key := rfl
@[simp] theorem State.doReset_akey : s.doReset.akey = State.reset.akey := rfl
@[simp] theorem State.doReset_inp : s.doReset.inp = State.reset.inp := rfl
@[simp] theorem State.doReset_out : s.doReset.out = State.reset.out := rfl
@[simp] theorem State.doReset_phase : s.doReset.phase = State.reset.phase := rfl
@[simp] theorem State.doReset_rngN : s.doReset.rngN = State.reset.rngN := rfl
@[simp] theorem State.doReset_work : s.doReset.work = State.reset.work := rfl
@[simp] theorem State.doReset_answer : s.doReset.answer = State.reset.answer := rfl
@[simp] theorem State.doReset_inputs : s.doReset.inputs = s.inputs := rfl
@[simp] theorem State.doReset_readData : s.doReset.readData = s.readData := rfl
@[simp] theorem State.doReset_ticks : s.doReset.ticks = s.ticks := rfl
@[simp] theorem State.doReset_resets : s.doReset.resets = s.resets + 1 := rfl

end Machine
end Sys2Proof
end

