-- ==== Sys2Proof/Laws/Memory.lean ====
section
/-! SUPPORT. The buffers: a read after a write, and the canonical form and the bound that every operation keeps. -/

namespace Sys2Proof
namespace Machine

@[simp] theorem Memory.read_nil (i : Nat) : Memory.read [] i = 0 := rfl

/-- A buffer listed in two parts reads from the first one that lists the index. -/
theorem Memory.read_append (m n : Memory) (i : Nat) :
    Memory.read (m ++ n) i = if i ∈ m.map Prod.fst then Memory.read m i else Memory.read n i := by
  induction m with
  | nil => simp
  | cons c m ih =>
    obtain ⟨a, v⟩ := c
    by_cases h : a = i
    · subst h; simp [Memory.read]
    · simp [Memory.read, h, ih, Ne.symm h]

/-- An index a filter on indices keeps reads as before. -/
theorem Memory.read_filter_pos (q : Nat → Bool) (m : Memory) (i : Nat) (h : q i = true) :
    Memory.read (m.filter fun c => q c.1) i = Memory.read m i := by
  induction m with
  | nil => rfl
  | cons c m ih =>
    obtain ⟨a, v⟩ := c
    by_cases ha : a = i
    · subst ha; simp [Memory.read, h]
    · by_cases hq : q a = true <;> simp [Memory.read, hq, ha, ih]

/-- An index a filter drops is not listed. -/
theorem Memory.not_mem_filter (q : Nat → Bool) (m : Memory) (i : Nat) (h : q i = false) :
    i ∉ (m.filter fun c => q c.1).map Prod.fst := by
  intro hm
  obtain ⟨c, hc, rfl⟩ := List.mem_map.mp hm
  have := (List.mem_filter.mp hc).2
  simp_all

/-- A buffer that does not list an index reads 0x00 there. -/
theorem Memory.read_of_not_mem (m : Memory) (i : Nat) (h : i ∉ m.map Prod.fst) : Memory.read m i = 0 := by
  induction m with
  | nil => rfl
  | cons c m ih =>
    obtain ⟨a, v⟩ := c
    simp only [List.map_cons, List.mem_cons, not_or] at h
    simp [Memory.read, Ne.symm h.1, ih h.2]

/-- The indices the cells of a byte string list lie in its range. -/
theorem Memory.mem_cells (off : Nat) (b : Bytes) (c : Host.Cell) (h : c ∈ Memory.cells off b) :
    off ≤ c.1 ∧ c.1 < off + b.length ∧ c.2 ≠ 0 := by
  induction b generalizing off with
  | nil => simp [Memory.cells] at h
  | cons v b ih =>
    simp only [Memory.cells] at h
    split at h
    · have := ih _ h
      refine ⟨by omega, ?_, this.2.2⟩
      simp only [List.length_cons]; omega
    · rcases List.mem_cons.mp h with rfl | h
      · simp_all
      · have := ih _ h
        refine ⟨by omega, ?_, this.2.2⟩
        simp only [List.length_cons]; omega

/-- The cells of a byte string read as the string in its range. -/
theorem Memory.read_cells (off : Nat) (b : Bytes) (i : Nat) :
    Memory.read (Memory.cells off b) i = if off ≤ i then b.getD (i - off) 0 else 0 := by
  induction b generalizing off with
  | nil => simp [Memory.cells]
  | cons v b ih =>
    have hstep : (if off + 1 ≤ i then b.getD (i - (off + 1)) 0 else 0) =
        if off = i then 0 else if off ≤ i then (v :: b).getD (i - off) 0 else 0 := by
      rcases Nat.lt_trichotomy off i with h | h | h
      · have : i - off = (i - (off + 1)) + 1 := by omega
        rw [if_pos (by omega), if_neg (by omega), if_pos (by omega), this]; simp
      · subst h; simp
      · rw [if_neg (by omega), if_neg (by omega), if_neg (by omega)]
    simp only [Memory.cells]
    split
    · rename_i hv
      rw [ih, hstep]
      split
      · rename_i he; subst he; simp [hv]
      · rfl
    · simp only [Memory.read, ih, hstep]
      split
      · rename_i he; subst he; simp
      · rfl

/-- A read after a write: the byte written in the range, what was there outside it. -/
theorem Memory.read_writeBytes (m : Memory) (off : Nat) (b : Bytes) (i : Nat) :
    Memory.read (Memory.writeBytes m off b) i =
      if off ≤ i ∧ i < off + b.length then b.getD (i - off) 0 else Memory.read m i := by
  have mid : i ∈ (Memory.cells off b).map Prod.fst → off ≤ i ∧ i < off + b.length := by
    intro hi
    obtain ⟨c, hc, rfl⟩ := List.mem_map.mp hi
    exact ⟨(Memory.mem_cells off b c hc).1, (Memory.mem_cells off b c hc).2.1⟩
  have notlo : ¬ i < off → i ∉ (m.filter fun c => decide (c.1 < off)).map Prod.fst := fun h =>
    Memory.not_mem_filter (fun a => decide (a < off)) m i (by simpa using h)
  have nothi : ¬ off + b.length ≤ i → i ∉ (m.filter fun c => decide (off + b.length ≤ c.1)).map Prod.fst := fun h =>
    Memory.not_mem_filter (fun a => decide (off + b.length ≤ a)) m i (by simpa using h)
  unfold Memory.writeBytes
  rw [List.append_assoc, Memory.read_append, Memory.read_append]
  by_cases hin : off ≤ i ∧ i < off + b.length
  · rw [if_pos hin, if_neg (notlo (by omega))]
    by_cases hc : i ∈ (Memory.cells off b).map Prod.fst
    · rw [if_pos hc, Memory.read_cells, if_pos hin.1]
    · have h0 := Memory.read_of_not_mem _ _ hc
      rw [Memory.read_cells, if_pos hin.1] at h0
      rw [if_neg hc, h0, Memory.read_of_not_mem _ _ (nothi (by omega))]
  · rw [if_neg hin]
    by_cases hlo : i < off
    · by_cases hm : i ∈ (m.filter fun c => decide (c.1 < off)).map Prod.fst
      · rw [if_pos hm]
        exact Memory.read_filter_pos (fun a => decide (a < off)) m i (by simpa using hlo)
      · have h0 := Memory.read_of_not_mem _ _ hm
        rw [Memory.read_filter_pos (fun a => decide (a < off)) m i (by simpa using hlo)] at h0
        rw [if_neg hm, if_neg (fun h => hin (mid h)), Memory.read_of_not_mem _ _ (nothi (by omega)), h0]
    · rw [if_neg (notlo hlo), if_neg (fun h => hin (mid h))]
      exact Memory.read_filter_pos (fun a => decide (off + b.length ≤ a)) m i (by simp; omega)

/-- A buffer written from index 0 on reads as the string, then as before. -/
theorem Memory.read_writeBytes_zero (m : Memory) (b : Bytes) (i : Nat) :
    Memory.read (Memory.writeBytes m 0 b) i = b.getD i (Memory.read m i) := by
  rw [Memory.read_writeBytes]
  by_cases h : i < b.length
  · simp [h]
  · simp [h, List.getD]

/-- One byte written: read back, and nothing else changed. -/
theorem Memory.read_write (m : Memory) (i : Nat) (v : Byte) (j : Nat) :
    Memory.read (Memory.write m i v) j = if j = i then v else Memory.read m j := by
  unfold Memory.write
  rw [Memory.read_writeBytes]
  by_cases h : j = i
  · subst h; simp
  · rw [if_neg (by simp; omega), if_neg h]

/-- The canonical form as a fact about the list: indices rise and no byte is 0x00. -/
theorem Memory.wf_iff (m : Memory) :
    Memory.wf m = true ↔ m.Pairwise (fun c d => c.1 < d.1) ∧ ∀ c ∈ m, c.2 ≠ 0 := by
  induction m with
  | nil => simp [Memory.wf]
  | cons c m ih =>
    obtain ⟨a, v⟩ := c
    cases m with
    | nil => simp [Memory.wf]
    | cons d m =>
      obtain ⟨b, w⟩ := d
      simp only [Memory.wf, Bool.and_eq_true, decide_eq_true_eq, bne_iff_ne, ih]
      constructor
      · rintro ⟨⟨hv, hab⟩, hp, hz⟩
        refine ⟨List.pairwise_cons.mpr ⟨?_, hp⟩, ?_⟩
        · intro e he
          rcases List.mem_cons.mp he with rfl | he
          · exact hab
          · exact lt_trans hab ((List.pairwise_cons.mp hp).1 e he)
        · intro e he
          rcases List.mem_cons.mp he with rfl | he
          · exact hv
          · exact hz e he
      · rintro ⟨hp, hz⟩
        exact ⟨⟨hz (a, v) List.mem_cons_self, (List.pairwise_cons.mp hp).1 (b, w) List.mem_cons_self⟩, (List.pairwise_cons.mp hp).2,
          fun e he => hz e (List.mem_cons_of_mem _ he)⟩

/-- The cells of a byte string have rising indices. -/
theorem Memory.pairwise_cells (off : Nat) (b : Bytes) :
    (Memory.cells off b).Pairwise (fun c d => c.1 < d.1) := by
  induction b generalizing off with
  | nil => simp [Memory.cells]
  | cons v b ih =>
    simp only [Memory.cells]
    split
    · exact ih _
    · refine List.pairwise_cons.mpr ⟨?_, ih _⟩
      intro c hc
      have := (Memory.mem_cells _ _ _ hc).1
      simp only; omega

/-- A write keeps the canonical form. -/
theorem Memory.wf_writeBytes (m : Memory) (off : Nat) (b : Bytes) (h : Memory.wf m = true) :
    Memory.wf (Memory.writeBytes m off b) = true := by
  rw [Memory.wf_iff] at h ⊢
  obtain ⟨hp, hz⟩ := h
  unfold Memory.writeBytes
  constructor
  · rw [List.append_assoc, List.pairwise_append, List.pairwise_append]
    refine ⟨hp.filter _, ⟨Memory.pairwise_cells off b, hp.filter _, ?_⟩, ?_⟩
    · intro c hc d hd
      have h1 := (Memory.mem_cells off b c hc).2.1
      have h2 := (List.mem_filter.mp hd).2
      simp only [decide_eq_true_eq] at h2; omega
    · intro c hc d hd
      have h1 := (List.mem_filter.mp hc).2
      simp only [decide_eq_true_eq] at h1
      rcases List.mem_append.mp hd with hd | hd
      · have := (Memory.mem_cells off b d hd).1; omega
      · have h2 := (List.mem_filter.mp hd).2
        simp only [decide_eq_true_eq] at h2; omega
  · intro c hc
    rcases List.mem_append.mp hc with hc | hc
    · rcases List.mem_append.mp hc with hc | hc
      · exact hz c (List.mem_filter.mp hc).1
      · exact (Memory.mem_cells off b c hc).2.2
    · exact hz c (List.mem_filter.mp hc).1

theorem Memory.wf_write (m : Memory) (i : Nat) (v : Byte) (h : Memory.wf m = true) :
    Memory.wf (Memory.write m i v) = true := Memory.wf_writeBytes m i [v] h

theorem Memory.below_iff (m : Memory) (cap : Nat) : Memory.below m cap = true ↔ ∀ c ∈ m, c.1 < cap := by
  simp [Memory.below]

/-- A write that ends at or below a bound keeps the bound. -/
theorem Memory.below_writeBytes (m : Memory) (off : Nat) (b : Bytes) (cap : Nat) (h : Memory.below m cap = true)
    (hb : off + b.length ≤ cap) : Memory.below (Memory.writeBytes m off b) cap = true := by
  rw [Memory.below_iff] at h ⊢
  intro c hc
  rcases List.mem_append.mp hc with hc | hc
  · rcases List.mem_append.mp hc with hc | hc
    · exact h c (List.mem_filter.mp hc).1
    · have := (Memory.mem_cells off b c hc).2.1; omega
  · exact h c (List.mem_filter.mp hc).1

theorem Memory.wf_storeBelow (cap : Nat) (m : Memory) (i : Nat) (v : Byte) (h : Memory.wf m = true) :
    Memory.wf (storeBelow cap m i v) = true := by
  unfold storeBelow
  split
  · exact Memory.wf_write m i v h
  · exact h

theorem Memory.below_storeBelow (cap : Nat) (m : Memory) (i : Nat) (v : Byte) (h : Memory.below m cap = true) :
    Memory.below (storeBelow cap m i v) cap = true := by
  unfold storeBelow
  split
  · exact Memory.below_writeBytes m i [v] cap h (by simp; omega)
  · exact h

/-- A store below a capacity: read back when the index is below it, and nothing else changed. -/
theorem Memory.read_storeBelow (cap : Nat) (m : Memory) (i : Nat) (v : Byte) (j : Nat) :
    Memory.read (storeBelow cap m i v) j = if j = i ∧ i < cap then v else Memory.read m j := by
  unfold storeBelow
  by_cases h : i < cap
  · rw [if_pos h, Memory.read_write]; simp [h]
  · rw [if_neg h, if_neg (fun h' => h h'.2)]

/-- Two canonical buffers that read alike are the same list: equal contents are equal data. -/
theorem Memory.ext_of_wf (m n : Memory) (hm : Memory.wf m = true) (hn : Memory.wf n = true)
    (h : ∀ i, Memory.read m i = Memory.read n i) : m = n := by
  have read_eq : ∀ (m : Memory) (c : Host.Cell), Memory.wf m = true → c ∈ m → Memory.read m c.1 = c.2 := by
    intro m c hw hc
    induction m with
    | nil => simp at hc
    | cons d m ih =>
      have hp := ((Memory.wf_iff _).mp hw).1
      rcases List.mem_cons.mp hc with rfl | hc'
      · simp [Memory.read]
      · have hlt := (List.pairwise_cons.mp hp).1 c hc'
        have hw' : Memory.wf m = true := (Memory.wf_iff m).mpr
          ⟨(List.pairwise_cons.mp hp).2, fun e he => ((Memory.wf_iff _).mp hw).2 e (List.mem_cons_of_mem _ he)⟩
        obtain ⟨a, v⟩ := d
        simp only [Memory.read]
        rw [if_neg (by simp only at hlt; omega)]
        exact ih hw' hc'
  have sub : ∀ (m n : Memory), Memory.wf m = true → Memory.wf n = true →
      (∀ i, Memory.read m i = Memory.read n i) → m ⊆ n := by
    intro m n hm hn h c hc
    have h1 : Memory.read n c.1 = c.2 := (h c.1) ▸ read_eq m c hm hc
    have h2 : c.2 ≠ 0 := ((Memory.wf_iff m).mp hm).2 c hc
    by_cases hmem : c.1 ∈ n.map Prod.fst
    · obtain ⟨d, hd, hdc⟩ := List.mem_map.mp hmem
      have h3 := read_eq n d hn hd
      rw [hdc, h1] at h3
      have : c = d := Prod.ext hdc.symm h3
      exact this ▸ hd
    · exact absurd (h1.symm.trans (Memory.read_of_not_mem _ _ hmem)) h2
  have hpm := ((Memory.wf_iff m).mp hm).1
  have hpn := ((Memory.wf_iff n).mp hn).1
  have nm : m.Nodup := hpm.imp fun hlt he => by subst he; exact lt_irrefl _ hlt
  have nn : n.Nodup := hpn.imp fun hlt he => by subst he; exact lt_irrefl _ hlt
  have perm : m.Perm n := (List.perm_ext_iff_of_nodup nm nn).mpr fun c =>
    ⟨fun hc => sub m n hm hn h hc, fun hc => sub n m hn hm (fun i => (h i).symm) hc⟩
  exact perm.eq_of_pairwise (fun a b _ _ h1 h2 => absurd (lt_trans h1 h2) (lt_irrefl _)) hpm hpn

end Machine
end Sys2Proof
end

