-- ==== Sys2Proof/Laws/Ops.lean ====
section
/-! SUPPORT. Everything each shared operation can do, said once: the completions, the request, the resumed operation
and the length check. -/

namespace Sys2Proof
namespace Machine

theorem SameOutside.refl (s : State) : SameOutside s s := ⟨rfl, rfl, rfl, rfl, rfl⟩

theorem State.clearOperands_wiped (s : State) : Wiped s.clearOperands :=
  { key := fun _ => rfl, akey := fun _ => rfl, inp := fun _ => rfl, keyLen := rfl, akeyLen := rfl, inLen := rfl,
    work := rfl, phase := rfl, rngN := rfl, answer := rfl }

/-- `Finish(Ok out)` is a normal completion with `out`. -/
theorem State.finishOk_doneWith (s : State) (out : Bytes) : DoneWith s (s.finishOk out) out :=
  { engine := rfl, err := rfl, outLen := rfl, out := Memory.read_writeBytes_zero s.out out, cmd := rfl, haz := rfl,
    wiped := State.clearOperands_wiped _, outside := ⟨rfl, rfl, rfl, rfl, rfl⟩ }

/-- `Finish(Err code)` is an error completion. -/
theorem State.finishErr_failedWith (s : State) (e : EngineError) : FailedWith s (s.finishErr e) e :=
  { engine := rfl, err := rfl, outLen := rfl, out := fun _ => rfl, cmd := rfl, haz := rfl,
    wiped := State.clearOperands_wiped _, outside := ⟨rfl, rfl, rfl, rfl, rfl⟩ }

/-- `Need(n)` waits and changes nothing else. -/
theorem State.need_waitsFor (s : State) (n : Byte) : WaitsFor s (s.need n) n :=
  { phase := rfl, rngN := rfl, cmd := rfl, engine := rfl, haz := rfl, err := rfl, keyLen := rfl, akeyLen := rfl,
    inLen := rfl, outLen := rfl, key := fun _ => rfl, akey := fun _ => rfl, inp := fun _ => rfl, out := fun _ => rfl,
    work := rfl, answer := rfl, outside := ⟨rfl, rfl, rfl, rfl, rfl⟩ }

/-- `Finish(r)` is one of the two completions. -/
theorem State.finish_cases (s : State) (r : Except EngineError Bytes) :
    (∃ out, r = .ok out ∧ s.finish r = s.finishOk out) ∨ (∃ e, r = .error e ∧ s.finish r = s.finishErr e) := by
  cases r with
  | ok out => exact .inl ⟨out, rfl, rfl⟩
  | error e => exact .inr ⟨e, rfl, rfl⟩

/-- The length check: the operation's own steps, or `OperandLengthError`. -/
theorem State.checked_cases (p : Config.Params) (s run : State) :
    (s.lengthsOk p = true ∧ s.checked p run = run) ∨
    (s.lengthsOk p = false ∧ s.checked p run = s.finishErr .operandLength) := by
  unfold State.checked
  cases h : s.lengthsOk p <;> simp

@[simp] theorem State.checked_of_ok (p : Config.Params) (s run : State) (h : s.lengthsOk p = true) :
    s.checked p run = run := by simp [State.checked, h]

@[simp] theorem State.checked_of_not_ok (p : Config.Params) (s run : State) (h : s.lengthsOk p = false) :
    s.checked p run = s.finishErr .operandLength := by simp [State.checked, h]

@[simp] theorem State.resume_some (s : State) (f : Config.EntropyAnswer → Except EngineError Bytes)
    (a : Config.EntropyAnswer) (h : s.answer = some a) : s.resume f = s.finish (f a) := by
  simp [State.resume, h]

@[simp] theorem State.resume_none (s : State) (f : Config.EntropyAnswer → Except EngineError Bytes)
    (h : s.answer = none) : s.resume f = s := by simp [State.resume, h]

theorem State.lengthsOk_iff (p : Config.Params) (s : State) :
    s.lengthsOk p = true ↔ s.keyLen.toNat ≤ p.keyMax ∧ s.akeyLen.toNat ≤ p.akeyMax ∧ s.inLen.toNat ≤ p.inMax := by
  simp [State.lengthsOk, and_assoc]

/-- What the entropy source's answer makes of a request: the bytes, or `RandomSourceError`. -/
theorem generateNonce_cases (n : Nat) (a : Config.EntropyAnswer) (hn : n ≠ 0) :
    (a.ok = true ∧ a.data.length = n ∧ generateNonce n a = .ok a.data) ∨
    ((a.ok = false ∨ a.data.length ≠ n) ∧ generateNonce n a = .error .randomSource) := by
  unfold generateNonce
  rw [if_neg hn]
  by_cases h : a.ok = true ∧ a.data.length = n
  · exact .inl ⟨h.1, h.2, if_pos h⟩
  · refine .inr ⟨?_, if_neg h⟩
    cases hk : a.ok
    · exact .inl rfl
    · exact .inr fun hl => h ⟨hk, hl⟩

/-- One step of the operation from `s` to `t`: it completed, failed, asked for random bytes, or goes on waiting. -/
inductive OpStep (s : State) : State → Prop where
  | done (out : Bytes) : OpStep s (s.finishOk out)
  | failed (e : EngineError) : OpStep s (s.finishErr e)
  | asks (n : Byte) (h : s.phase = .run) : OpStep s (s.need n)
  | cleared : OpStep s s.finishClear
  | stays (h : s.phase = .wait) (ha : s.answer = none) : OpStep s s

theorem OpStep.finish (s : State) (r : Except EngineError Bytes) : OpStep s (s.finish r) := by
  cases r with
  | ok out => exact .done out
  | error e => exact .failed e

theorem OpStep.checked (p : Config.Params) (s run : State) (h : OpStep s run) : OpStep s (s.checked p run) := by
  rcases State.checked_cases p s run with ⟨_, he⟩ | ⟨_, he⟩ <;> rw [he]
  · exact h
  · exact .failed _

theorem OpStep.resume (s : State) (f : Config.EntropyAnswer → Except EngineError Bytes) (h : s.phase = .wait) :
    OpStep s (s.resume f) := by
  cases ha : s.answer with
  | none => rw [State.resume_none s f ha]; exact .stays h ha
  | some a => rw [State.resume_some s f a ha]; exact .finish s (f a)

/-- Every command answers a next state, and that state is one of five shapes. -/
theorem execAt_opStep (p : Config.Params) (i : Instr) (s : State) : ∃ t, execAt p i s = .next t ∧ OpStep s t := by
  cases i with
  | clear => exact ⟨_, rfl, .cleared⟩
  | genNonce size =>
    refine ⟨_, rfl, ?_⟩
    unfold genNonceRun
    split
    · rename_i hp
      apply OpStep.checked
      split
      · exact .done []
      · exact .asks size hp
    · rename_i hp; exact OpStep.resume s _ hp
  | pad bs => exact ⟨_, rfl, OpStep.checked _ s _ (.finish s _)⟩
  | unpad => exact ⟨_, rfl, OpStep.checked _ s _ (.finish s _)⟩
  | gcmEnc =>
    refine ⟨_, rfl, ?_⟩
    unfold gcmEncRun
    split
    · rename_i hp
      apply OpStep.checked
      split
      · exact .failed _
      · exact .asks 12 hp
    · rename_i hp; exact OpStep.resume s _ hp
  | gcmDec => exact ⟨_, rfl, OpStep.checked _ s _ (.finish s _)⟩
  | cbcEnc sel =>
    refine ⟨_, rfl, ?_⟩
    unfold cbcEncRun
    split
    · rename_i hp
      apply OpStep.checked
      split
      · exact .failed _
      · exact .asks 16 hp
    · rename_i hp; exact OpStep.resume s _ hp
  | cbcDec sel => exact ⟨_, rfl, OpStep.checked _ s _ (.finish s _)⟩

/-- `exec` is the step of a command on the engine with the default parameters. -/
@[simp] theorem execAt_params (i : Instr) (s : State) : execAt params i s = exec i s := by cases i <;> rfl

/-- `execAt_opStep` for `exec`. -/
theorem exec_opStep (i : Instr) (s : State) : ∃ t, exec i s = .next t ∧ OpStep s t :=
  execAt_params i s ▸ execAt_opStep params i s

end Machine
end Sys2Proof
end

