-- ==== Sys2Proof/Laws/PerInstr.lean ====
section
/-! SUPPORT. One statement for every instruction as syntax: it is well formed, its word selects its row of the opcode
table and no other, and the word has the fields of spec 30_encoding.md R91. -/

namespace Sys2Proof
namespace Laws
namespace EncodeDecode

/-- The word of `i` is legal, it selects the row of `i` alone, and its fields are those of `i`. -/
def Statement (i : Instr) : Prop :=
  i.wellFormed = true ∧ fieldsOf (encode i) = i.fields ∧
    ∀ r ∈ commandRows, r.selects (encode i) = true ↔ r.mnemonic = i.mnemonic

theorem clear : Statement .clear := by unfold Statement; decide

theorem genNonce (size : Byte) : Statement (.genNonce size) := by revert size; unfold Statement; decide +kernel

theorem pad (blockSize : Byte) : Statement (.pad blockSize) := by revert blockSize; unfold Statement; decide +kernel

theorem unpad : Statement .unpad := by unfold Statement; decide

theorem gcmEnc : Statement .gcmEnc := by unfold Statement; decide

theorem gcmDec : Statement .gcmDec := by unfold Statement; decide

theorem cbcEnc (sel : Byte) : Statement (.cbcEnc sel) := by revert sel; unfold Statement; decide +kernel

theorem cbcDec (sel : Byte) : Statement (.cbcDec sel) := by revert sel; unfold Statement; decide +kernel

end EncodeDecode
end Laws
end Sys2Proof
end

