-- ==== Sys2Proof/Laws/Step.lean ====
section
/-! SUPPORT. What a step of the machine can do, said once: one equation for each event and the shapes of a step of the
engine. -/

namespace Sys2Proof
namespace Machine

variable (p : Config.Params)

/-- The command that is in `CMD` takes one step, or is illegal: a next state in one of the shapes of `OpStep`. -/
theorem runCommand_opStep (s : State) : ∃ t, runCommand p s = .next t ∧ OpStep s t := by
  unfold runCommand
  split
  · exact ⟨_, rfl, .failed _⟩
  · exact execAt_opStep p _ s

theorem runCommand_of_decode (s : State) (i : Instr) (h : decode s.cmd = .ok i) : runCommand p s = execAt p i s := by
  simp [runCommand, h]

theorem runCommand_of_illegal (s : State) (e : IllegalWord) (h : decode s.cmd = .error e) :
    runCommand p s = .next (s.finishErr .illegalCommand) := by simp [runCommand, h]

theorem engineStep_of_run (s : State) (hb : s.engine = .busy) (hp : s.phase = .run) :
    engineStep p s = runCommand p s := by simp [engineStep, hb, hp]

theorem engineStep_of_not_run (s : State) (h : ¬ (s.engine = .busy ∧ s.phase = .run)) : engineStep p s = .next s := by
  simp [engineStep, h]

/-- An answer to the request that is outstanding. -/
theorem entropyStep_of_wait (a : Config.EntropyAnswer) (s : State) (hb : s.engine = .busy) (hp : s.phase = .wait) :
    entropyStep p s.resets a s = runCommand p { s with answer := some a } := by simp [entropyStep, hb, hp]

/-- An answer when no request is outstanding. -/
theorem entropyStep_of_not_wait (era : Nat) (a : Config.EntropyAnswer) (s : State)
    (h : ¬ (s.engine = .busy ∧ s.phase = .wait)) : entropyStep p era a s = .next s := by
  unfold entropyStep
  exact if_neg fun h' => h ⟨h'.1, h'.2.1⟩

/-- An answer to a request made before a reset. -/
theorem entropyStep_of_late (era : Nat) (a : Config.EntropyAnswer) (s : State) (h : era ≠ s.resets) :
    entropyStep p era a s = .next s := by simp [entropyStep, h]

/-- The engine's turn: a busy engine in `P_RUN` takes a step of its operation, any other state stays. -/
theorem engineStep_cases (s : State) : ∃ t, engineStep p s = .next t ∧
    ((s.engine = .busy ∧ s.phase = .run ∧ OpStep s t) ∨ (¬ (s.engine = .busy ∧ s.phase = .run) ∧ t = s)) := by
  by_cases h : s.engine = .busy ∧ s.phase = .run
  · obtain ⟨t, ht, hs⟩ := runCommand_opStep p s
    exact ⟨t, (engineStep_of_run p s h.1 h.2).trans ht, .inl ⟨h.1, h.2, hs⟩⟩
  · exact ⟨s, engineStep_of_not_run p s h, .inr ⟨h, rfl⟩⟩

/-- The entropy source's turn: an operation that waits for this answer takes its second step, any other state stays. -/
theorem entropyStep_cases (era : Nat) (a : Config.EntropyAnswer) (s : State) : ∃ t, entropyStep p era a s = .next t ∧
    ((s.engine = .busy ∧ s.phase = .wait ∧ era = s.resets ∧ OpStep { s with answer := some a } t) ∨
      (¬ (s.engine = .busy ∧ s.phase = .wait ∧ era = s.resets) ∧ t = s)) := by
  by_cases h : s.engine = .busy ∧ s.phase = .wait ∧ era = s.resets
  · obtain ⟨t, ht, hs⟩ := runCommand_opStep p { s with answer := some a }
    exact ⟨t, (if_pos h).trans ht, .inl ⟨h.1, h.2.1, h.2.2, hs⟩⟩
  · exact ⟨s, if_neg h, .inr ⟨h, rfl⟩⟩

/-- A step with an event due: the event happens and leaves the script. -/
theorem advance_cons (s : State) (e : Input) (es : List Input) (h : s.inputs = e :: es) :
    advance p s = applyInput p e { s with inputs := es } := by simp [advance, h]

/-- A step with no event due. -/
theorem advance_nil (s : State) (h : s.inputs = []) : advance p s = freeStep p s := by simp [advance, h]

/-- `advance_cons` for the default parameters. -/
theorem step_cons (s : State) (e : Input) (es : List Input) (h : s.inputs = e :: es) :
    step s = applyInput params e { s with inputs := es } := advance_cons params s e es h

/-- `advance_nil` for the default parameters. -/
theorem step_nil (s : State) (h : s.inputs = []) : step s = freeStep params s := advance_nil params s h

/-- A step of the engine with no event due, whose operation is in `P_RUN` (log entry 2). -/
theorem freeStep_of_run (s : State) (hp : s.phase = .run) : freeStep p s = engineStep p s := by simp [freeStep, hp]

/-- A write to a target that a busy engine does not accept. -/
theorem State.unlessBusy_of_busy (s t : State) (h : s.engine = .busy) : s.unlessBusy t = s.dropped := by
  simp [State.unlessBusy, h]

theorem State.unlessBusy_of_not_busy (s t : State) (h : s.engine ≠ .busy) : s.unlessBusy t = t := by
  simp [State.unlessBusy, h]

end Machine
end Sys2Proof
end

