-- ==== Sys2Proof/Machine/HostProgram.lean ====
section
/-! DEFINITION. The host's line notation, what each statement stands for, and the source's calls as statements (spec
30_encoding.md R97, R98; 46_system_commands.md R309). -/

namespace Sys2Proof
namespace Machine

/-- One statement of a host program (R97, R98). -/
inductive Statement where
  | key (b : Bytes)
  | akey (b : Bytes)
  | inp (b : Bytes)
  | command (i : Instr)
  | word (w : Word)
  | ie (on : Bool)
  | access (e : Input)
  | ent (b : Bytes)
  | entFail
  | wait
  | result
  deriving DecidableEq, Repr

/-- `HostWriteBuf(id, i, b_i)` for each byte in order from index `i` on (R98). -/
def loadBuffer (id : Nat) : Nat → Bytes → List Input
  | _, [] => []
  | i, b :: bs => .writeBuf id i b :: loadBuffer id (i + 1) bs

/-- The bytes of a buffer, then its length register (R98). -/
def loadOperand (id reg : Nat) (b : Bytes) : List Input :=
  loadBuffer id 0 b ++ [.writeReg reg (BitVec.ofNat 32 b.length)]

/-- The value of a `RESULT` statement (R98): `s[1:0]` of the word the last `WAIT` read, `ERR`, and the bytes read.

DESIGN CHOICE (log entry 19): R98 takes `s` from `WAIT` and does not say what it is when no `WAIT` came before; then
`state` is `none`, no value. -/
structure ResultValue where
  state : Option (BitVec 2)
  err   : Word
  bytes : Bytes
  deriving DecidableEq, Repr

/-- What a test has of a run: the state, the entropy answer fixed by `ENT` and not yet used (a later `ENT` replaces
it: log entry 19), the word `WAIT` read last from `STATUS` if there was a `WAIT`, the values of the `RESULT` statements,
the latest first, and whether the program hangs in a `WAIT` (R309). -/
structure HostRun where
  state   : State
  nextEnt : Option Config.EntropyAnswer
  status  : Option Word
  results : List ResultValue
  hung    : Bool
  deriving DecidableEq, Repr

/-- One event given to the machine as its whole script. -/
def deliver (p : Config.Params) (e : Input) (s : State) : Host.Outcome State Fault Refusal :=
  advance p { s with inputs := [e] }

/-- The events given one after the other; what a fault or a refusal would leave is the state before it. -/
def deliverAll (p : Config.Params) : List Input → State → State
  | [], s => s
  | e :: es, s =>
    match deliver p e s with
    | .next t => deliverAll p es t
    | .fault _ => s
    | .refused _ => s

/-- `WAIT` (R98): `STATUS` is read until it does not say `BUSY`. After a read that says `BUSY` the engine-side step that
is due is taken, the entropy answer step with the answer `ENT` fixed. When an answer is due and none is fixed the source
never answers, and the program hangs (R309). At most `fuel` reads are made: an operation is over at the third
(log entry 12). -/
def waitDone (p : Config.Params) : Nat → HostRun → HostRun
  | 0, r => { r with hung := true }
  | fuel + 1, r =>
    let s := deliverAll p [.readReg 1] r.state
    let r := { r with state := s, status := some s.readData }
    if s.readData.extractLsb' 0 2 ≠ 1 then r
    else if s.phase = .run then waitDone p fuel { r with state := deliverAll p [.engineTurn] s }
    else
      match r.nextEnt with
      | none => { r with hung := true }
      | some a => waitDone p fuel { r with state := deliverAll p [.entropy s.resets a] s, nextEnt := none }

/-- `HostReadBuf(3, i)` for `i = from .. from + n - 1`, the bytes read in order (R98). -/
def readOut (p : Config.Params) : Nat → Nat → State → State × Bytes
  | 0, _, s => (s, [])
  | n + 1, i, s =>
    let s1 := deliverAll p [.readBuf 3 i] s
    let rest := readOut p n (i + 1) s1
    (rest.1, s1.readData.setWidth 8 :: rest.2)

/-- The host accesses a statement stands for (R97, R98), but for `WAIT` and `RESULT`, whose accesses depend on what is
read, and `ENT`, which is none. -/
def Statement.accesses : Statement → List Input
  | .key b => loadOperand 0 4 b
  | .akey b => loadOperand 1 5 b
  | .inp b => loadOperand 2 6 b
  | .command i => [.writeReg 0 (encode i)]
  | .word w => [.writeReg 0 w]
  | .ie on => [.writeReg 3 (if on then 1 else 0)]
  | .access e => [e]
  | .ent _ | .entFail | .wait | .result => []

/-- `RESULT` (R98). -/
def readResult (p : Config.Params) (r : HostRun) : HostRun :=
  let s1 := deliverAll p [.readReg 2] r.state
  let s2 := deliverAll p [.readReg 7] s1
  let o := readOut p s2.readData.toNat 0 s2
  { r with state := o.1,
           results := { state := r.status.map (·.extractLsb' 0 2), err := s1.readData, bytes := o.2 } :: r.results }

/-- One statement carried out (R97, R98).

DESIGN CHOICE (log entry 17): 20_memory.md R73 leaves open where engine-side steps fall between the accesses of a host
program. Here they fall only inside `WAIT`, after a read of `STATUS` that says `BUSY`, or where an `access` statement
puts one; every other statement is its accesses with no engine-side step between them. The machine itself
(`advance`) allows every interleaving. A program that hangs carries out nothing more. -/
def runStatement (p : Config.Params) (r : HostRun) (st : Statement) : HostRun :=
  if r.hung then r
  else
    match st with
    | .ent b => { r with nextEnt := some { ok := true, data := b } }
    | .entFail => { r with nextEnt := some { ok := false, data := [] } }
    | .wait => waitDone p 4 r
    | .result => readResult p r
    | .key _ | .akey _ | .inp _ | .command _ | .word _ | .ie _ | .access _ =>
      { r with state := deliverAll p st.accesses r.state }

/-- A host program from a state: no answer fixed, no `WAIT` and no `RESULT` yet. -/
def runProgram (p : Config.Params) (s : State) (prog : List Statement) : HostRun :=
  prog.foldl (runStatement p) { state := s, nextEnt := none, status := none, results := [], hung := false }

/-- The source's calls (R97). -/
inductive SourceCall where
  | generateNonce (size : Byte)
  | pad (data : Bytes) (blockSize : Byte)
  | unpad (data : Bytes)
  | gcmEncrypt (key plaintext : Bytes)
  | gcmDecrypt (key frame : Bytes)
  | cbcHmacEncrypt (encKey authKey plaintext : Bytes) (sel : Byte)
  | cbcHmacDecrypt (encKey authKey frame : Bytes) (sel : Byte)
  deriving DecidableEq, Repr

/-- The command of a call (R91). -/
def SourceCall.instr : SourceCall → Instr
  | .generateNonce size => .genNonce size
  | .pad _ blockSize => .pad blockSize
  | .unpad _ => .unpad
  | .gcmEncrypt _ _ => .gcmEnc
  | .gcmDecrypt _ _ => .gcmDec
  | .cbcHmacEncrypt _ _ _ sel => .cbcEnc sel
  | .cbcHmacDecrypt _ _ _ sel => .cbcDec sel

/-- The statements that load the operands of a call (R98, 10_state.md R29). -/
def SourceCall.operands : SourceCall → List Statement
  | .generateNonce _ => []
  | .pad data _ | .unpad data => [.inp data]
  | .gcmEncrypt key text | .gcmDecrypt key text => [.key key, .inp text]
  | .cbcHmacEncrypt encKey authKey text _ | .cbcHmacDecrypt encKey authKey text _ =>
    [.key encKey, .akey authKey, .inp text]

/-- A call as statements: load the operands, the command, `WAIT`, `RESULT` (R98; its two examples are GCM `encrypt` and
CBC-HMAC `decrypt`, the other calls follow the same form: log entry 18). -/
def SourceCall.statements (c : SourceCall) : List Statement :=
  c.operands ++ [.command c.instr, .wait, .result]

/-- The error a value of `ERR` names (60_exceptions.md R320). -/
def errorNamed (err : Word) : Option EngineError :=
  [.keyTooShort, .invalidNonceLength, .invalidIVLength, .invalidMacLength, .authenticationFailed, .randomSource,
   .cipherInitialization, .illegalCommand, .operandLength, .unsupportedHash, .invalidBlockSize, .malformedCiphertext,
   .malformedPadding].find? fun e => EngineError.code e == err.extractLsb' 0 8

/-- The value a call returns (R98): the bytes of `RESULT` when the state is `DONE`, the error named by `ERR` when it is
`ERROR`, and no value otherwise. -/
def ResultValue.returned (v : ResultValue) : Option (Except EngineError Bytes) :=
  if v.state = some EngineState.done.bits then some (.ok v.bytes)
  else if v.state = some EngineState.error.bits then (errorNamed v.err).map .error
  else none

/-- What a call returns on an engine in state `s` when `ENT` fixes the entropy answer before it, if it does; `none` when
it hangs (R98, R309). -/
def SourceCall.value (p : Config.Params) (s : State) (ent : List Statement) (c : SourceCall) :
    Option (Except EngineError Bytes) :=
  match (runProgram p s (ent ++ c.statements)).results with
  | [] => none
  | v :: _ => v.returned

end Machine
end Sys2Proof
end

