-- ==== Sys2Proof/Tests/Slice0.lean ====
section
/-! SUPPORT. The model's own tests: expected values are those of the spec (the rule or the vector of 95_test_vectors.md
is named), and for each statement with hypotheses one theorem shows a case that meets them all. -/

namespace Sys2Proof
namespace Tests

open Machine

/-- `n` bytes counting up from `a`. -/
def run (a n : Nat) : Bytes := (List.range n).map fun i => BitVec.ofNat 8 (a + i)

/-- A busy engine with a command, operands and an answer on the port. -/
def busy (cmd : Word) (phase : Phase) (key akey inp : Bytes) (answer : Option Bytes) : State :=
  { State.reset with
    cmd := cmd, engine := .busy, phase := phase,
    key := Memory.cells 0 key, keyLen := BitVec.ofNat 32 key.length,
    akey := Memory.cells 0 akey, akeyLen := BitVec.ofNat 32 akey.length,
    inp := Memory.cells 0 inp, inLen := BitVec.ofNat 32 inp.length,
    answer := answer.map fun d => { ok := true, data := d } }

/-- What the host sees of an outcome: `STATUS`, `ERR`, and `OUT[0..OUT_LEN)`. -/
def seen : Host.Outcome State Fault Refusal → Option (Word × Word × Bytes)
  | .next t => some (t.statusWord, t.errWord, t.outBytes)
  | .fault _ => none
  | .refused _ => none

/-! ### Operands of the vectors G1 and B1 -/

def k1 : Bytes := List.replicate 16 1
def nonce1 : Bytes := run 0 12
def test4 : Bytes := [0x74, 0x65, 0x73, 0x74]
def ct1 : Bytes := beBytes 20 0x6c3fbeca86828225689bfa49f0accd2d22e8dc65
def f1 : Bytes := 12 :: (nonce1 ++ ct1)
def ek : Bytes := run 0 16
def ak : Bytes := run 0x10 32
def iv1 : Bytes := run 0xa0 16
def mac2 : Bytes := beBytes 32 0xab5c07db72ea02c80a3b9be8d396d904beb64aaf3e0a0c4fa7f4b30c60a4160f
def ct2 : Bytes := beBytes 16 0x8564726b2dc7ceaa32273403fd14d9e1
def f2 : Bytes := 16 :: (iv1 ++ 32 :: (mac2 ++ ct2))

/-! ### Well-formedness: one ill-formed term for each check (R95) -/

theorem test_wf_refuses_reserved : ({ op := 0x01, arg := 0, rsv := 1 } : CommandFields).wellFormed = false := by decide
theorem test_wf_refuses_op : ({ op := 0x04, arg := 0, rsv := 0 } : CommandFields).wellFormed = false := by decide
theorem test_wf_refuses_arg : ({ op := 0x10, arg := 3, rsv := 0 } : CommandFields).wellFormed = false := by decide
theorem test_wf_accepts : ({ op := 0x02, arg := 0, rsv := 0 } : CommandFields).wellFormed = true := by decide

/-! ### Decoding: words written out from R90, R91 (op in bits 7:0, arg in bits 15:8) -/

theorem test_decode_clear : decode 0b00000000000000000000000000000000 = .ok .clear := by decide
theorem test_decode_gen_nonce : decode 0b00000000000000000000110000000001 = .ok (.genNonce 12) := by decide
theorem test_decode_pad : decode 0b00000000000000000001000000000010 = .ok (.pad 16) := by decide
theorem test_decode_unpad : decode 0b00000000000000000000000000000011 = .ok .unpad := by decide
theorem test_decode_gcm_enc : decode 0b00000000000000000000000000010000 = .ok .gcmEnc := by decide
theorem test_decode_gcm_dec : decode 0b00000000000000000000000000010001 = .ok .gcmDec := by decide
theorem test_decode_cbc_enc : decode 0b00000000000000000000000100100000 = .ok (.cbcEnc 1) := by decide
theorem test_decode_cbc_dec : decode 0b00000000000000000000001000100001 = .ok (.cbcDec 2) := by decide
/-- 95_test_vectors.md 2.1. -/
theorem test_decode_illegal : [0x00000100, 0x00010001, 0x80000010, 0x00000103, 0x00000004, 0x0000000F, 0x00000012,
    0x0000001F, 0x00000022, 0x000000FF, 0x00000310].all (fun w : Word => (decode w).toOption == none) := by decide

/-! ### The commands -/

/-- R306, S8: from a state with a key and `HAZ` set. -/
theorem test_clear : exec .clear { busy 0 .run k1 ak test4 none with haz := true, ie := true } =
    .next { State.reset with ie := true } := rfl
/-- N1. -/
theorem test_gen_nonce : seen (exec (.genNonce 12) (busy 0xC01 .wait [] [] [] (some nonce1))) =
    some (2, 0, nonce1) := by decide
/-- N4: a short answer. -/
theorem test_gen_nonce_short : seen (exec (.genNonce 4) (busy 0x401 .wait [] [] [] (some [0xaa, 0xbb, 0xcc]))) =
    some (3, 6, []) := by decide
/-- P7. -/
theorem test_pad : seen (exec (.pad 4) (busy 0x402 .run [] [] [0x61, 0x62, 0x63, 0x64, 0x65] none)) =
    some (2, 0, [0x61, 0x62, 0x63, 0x64, 0x65, 3, 3, 3]) := by decide
/-- P2: a full block on the empty string. -/
theorem test_pad_empty : seen (exec (.pad 16) (busy 0x1002 .run [] [] [] none)) =
    some (2, 0, List.replicate 16 16) := by decide
/-- U10: the other removed bytes are not looked at. -/
theorem test_unpad : seen (exec .unpad (busy 3 .run [] [] [0x41, 0x42, 0x99, 2] none)) =
    some (2, 0, [0x41, 0x42]) := by decide
/-- U8. -/
theorem test_unpad_too_long : seen (exec .unpad (busy 3 .run [] [] [0x61, 0x62, 5] none)) = some (3, 21, []) := by
  decide
/-- G1. -/
theorem test_gcm_enc : seen (exec .gcmEnc (busy 0x10 .wait k1 [] test4 (some nonce1))) = some (2, 0, f1) := by
  decide +kernel
/-- G10: a short key makes no request. -/
theorem test_gcm_enc_short_key : seen (exec .gcmEnc (busy 0x10 .run (List.replicate 15 0) [] test4 none)) =
    some (3, 1, []) := by decide
/-- G5: a long key is cut. -/
theorem test_gcm_dec : seen (exec .gcmDec (busy 0x11 .run (k1 ++ List.replicate 16 9) [] f1 none)) =
    some (2, 0, test4) := by decide +kernel
/-- G16 at byte 32: the last tag byte flipped. -/
theorem test_gcm_dec_tampered : seen (exec .gcmDec (busy 0x11 .run k1 [] (f1.set 32 0x64) none)) =
    some (3, 5, []) := by decide +kernel
/-- B1. -/
theorem test_cbc_enc : seen (exec (.cbcEnc 1) (busy 0x120 .wait ek ak test4 (some iv1))) = some (2, 0, f2) := by
  decide +kernel
/-- B18: the key length is looked at after the draw. -/
theorem test_cbc_enc_bad_key : seen (exec (.cbcEnc 1) (busy 0x120 .wait [0, 0, 0, 0, 0] ak test4 (some iv1))) =
    some (3, 7, []) := by decide
/-- B2. -/
theorem test_cbc_dec : seen (exec (.cbcDec 1) (busy 0x121 .run ek ak f2 none)) = some (2, 0, test4) := by
  decide +kernel
/-- B20: a bad MAC is reported before a bad key length. -/
theorem test_cbc_dec_bad_mac : seen (exec (.cbcDec 1) (busy 0x121 .run [0, 0, 0, 0, 0] ak (f2.set 18 0xaa) none)) =
    some (3, 5, []) := by decide +kernel

/-! ### Primitives -/

/-- R253. -/
theorem test_aes192 : aesEncrypt (run 0 24) 0x00112233445566778899aabbccddeeff = 0xdda97ca4864cdfe06eaf70a0ec0d7191 :=
  by decide +kernel
/-- R253. -/
theorem test_aes256_back : aesDecrypt (run 0 32) 0x8ea2b7ca516745bfeafc49904b496089 =
    0x00112233445566778899aabbccddeeff := by decide +kernel
/-- R168. -/
theorem test_gf_mul : gfMul 0x66e94bd4ef8a2c3b884cfa59ca342b2e 0x66e94bd4ef8a2c3b884cfa59ca342b2e =
    0xa569901bb4b18906f5059d24465c904d := by decide +kernel
/-- R169: the wrap does not carry into byte 11. -/
theorem test_inc32_wraps : inc32 0xaaaaaaaaaaaaaaaaaaaaaaaaffffffff = 0xaaaaaaaaaaaaaaaaaaaaaaaa00000000 := by decide
/-- R277. -/
theorem test_sha512_abc : intOf (sha512 [0x61, 0x62, 0x63]) =
    0xddaf35a193617abacc417349ae20413112e6fa4e89a97ea20a9eeee64b55d39a2192992a274fc1a836ba3c23a3feebbd454d4423643ce80e2a9ac94fa54ca49f :=
  by decide +kernel
/-- R277: the empty key and the empty message. -/
theorem test_hmac_empty : intOf (hmac { digestLen := 32, blockLen := 64, hash := sha256 } [] []) =
    0xb613679a0814d9ec772f95d778c35fc5ff1697c493715653c6c712144292c5ad := by decide +kernel

/-! ### The machine -/

/-- S5: only bit 0 of `CTRL` is stored. -/
theorem test_ctrl : hostReadReg (hostWriteReg State.reset 3 0xFFFFFFFF) 3 = 1 := by decide
/-- S10: a write to a busy engine is dropped and `HAZ` is set. -/
theorem test_busy_write : (hostWriteBuf params (busy 0x10 .wait k1 [] test4 none) 2 0 0xff).statusWord = 5 := by decide
/-- S2: a key is not read back. -/
theorem test_key_unreadable : hostReadBuf params (hostWriteBuf params State.reset 0 0 0xaa) 0 0 = 0 := by decide
/-- Memory keeps its canonical form: writing 0x00 removes the entry (R36). -/
theorem test_write_zero : Memory.write [(3, 7)] 3 0 = [] := by decide
/-- R98: `IN 74 65`. -/
theorem test_statement_in : loadOperand 2 6 [0x74, 0x65] =
    [.writeBuf 2 0 0x74, .writeBuf 2 1 0x65, .writeReg 6 2] := by decide
/-- R303: a word placed runs in the very next step. -/
theorem test_fetch_word : step (State.reset.withFetchWord 32 0x1002) =
    exec (.pad 16) (State.reset.withFetchWord 32 0x1002) := rfl

/-- R309: without an answer the program hangs in `WAIT`, and its `RESULT` gives no value. -/
theorem test_unanswered_wait_hangs :
    let r := runProgram params State.reset [.command (.genNonce 1), .wait, .result]
    r.hung = true ∧ r.results = [] ∧ r.state.engine = .busy := by decide
/-- R360: after a reset the answer to the request made before it is ignored, and the new one is still outstanding. -/
theorem test_late_answer :
    (runProgram params State.reset [.command (.genNonce 2), .access .engineTurn, .access .reset,
      .command (.genNonce 2), .access .engineTurn, .access (.entropy 0 ⟨true, [1, 2]⟩)]).state.request = some 2 := by
  decide
/-- R98: `s` is the word `WAIT` read; without a `WAIT` it is no value (log entry 19). -/
theorem test_result_state :
    (runProgram params State.reset [.result, .word 4, .wait, .result]).results.map (·.state) = [some 3, none] := by
  decide
/-- R98, with the operands and the frame of R160's example. -/
theorem test_source_call :
    (SourceCall.gcmEncrypt k1 test4).value params State.reset [.ent nonce1] = some (.ok f1) := by decide +kernel
/-- R98: a call that ends in `ERROR` returns the error `ERR` names (U8). -/
theorem test_source_call_error :
    (SourceCall.unpad [0x61, 0x62, 5]).value params State.reset [] = some (.error .malformedPadding) := by
  decide +kernel

/-! ### A case for each statement with hypotheses -/

/-- A cipher and a hash to which the constraints of R13 apply and that cost nothing to evaluate. -/
def plainCipher : Config.BlockCipher := { keyLens := [16], enc := fun _ x => x, dec := fun _ x => x }
def plainHash : Config.HashAlg := { digestLen := 1, blockLen := 1, hash := fun _ => [0] }
def plainParams : Config.Params :=
  { keyMax := 32, akeyMax := 1, inMax := 98, bc := plainCipher, ht := fun _ => some plainHash }
def sha256Entry : Config.HashAlg := { digestLen := 32, blockLen := 64, hash := sha256 }

/-- A word illegal in each of the three ways, in a running operation and about to be written, each with an empty
script after it and with the engine's turn. -/
theorem wit_IllegalWordFails :
    let s := busy 0x80000310 .run [] [] [] none
    let w := (0 : BitVec 16) ++ (0 : Byte) ++ (0x22 : Byte)
    let t := { State.reset with inputs := [.writeReg 0 w] }
    s.cmd = (0x8000 : BitVec 16) ++ (3 : Byte) ++ (0x10 : Byte) ∧ (0x8000 : BitVec 16) ≠ 0 ∧ s.engine = .busy ∧
      s.phase = .run ∧ s.inputs = [] ∧ ({ s with inputs := [.engineTurn] } : State).inputs = .engineTurn :: [] ∧
      t.engine ≠ .busy ∧ ({ t with inputs := [.writeReg 0 w, .engineTurn] } : State).inputs =
        .writeReg 0 w :: .engineTurn :: [] ∧
      (0x22 : Byte) ∉ [(0x00 : Byte), 0x01, 0x02, 0x03, 0x10, 0x11, 0x20, 0x21] ∧
      (0x10 : Byte) ∈ [(0x00 : Byte), 0x03, 0x10, 0x11] ∧ (3 : Byte) ≠ 0 := by decide
/-- The row of GEN_NONCE selects the largest word it can. -/
theorem wit_RowsSelectTheirInstructions : ∃ r ∈ commandRows, r.mnemonic = "GEN_NONCE" ∧ r.selects 0x0000FF01 = true := by
  decide
theorem wit_GcmFrameRoundTrip : nonce1.length = 12 ∧ parseGcmFrame f1 = .ok { nonce := nonce1, ct := ct1 } := by decide
theorem wit_CbcFrameRoundTrip : iv1.length = 16 ∧ mac2.length ≤ 255 ∧
    parseCbcFrame f2 = .ok { iv := iv1, mac := mac2, ct := ct2 } := by decide
/-- Both ends of the range of block sizes. -/
theorem wit_PadAppendsItsCount : padBytes [] 255 = List.replicate 255 0xff ∧ padBytes test4 1 = test4 ++ [1] := by
  decide +kernel
theorem wit_UnpadUndoesPad : unpadBytes (padBytes test4 1) = .ok test4 ∧ unpadBytes (padBytes [] 255) = .ok [] := by
  decide +kernel
theorem wit_SboxMeetsItsDefinition : mul8 0x53 0xca = 1 ∧ (0x53 : Byte) ≠ 0 := by decide
theorem wit_AesDecryptInvertsEncrypt : (run 0 24).length = 24 := by decide
theorem wit_MessagePaddingIsLeast : 0 < 64 ∧ (3 + 1 + 52 + 8) % 64 = 0 := by decide
theorem wit_HmacKeyIsOneBlock : plainHash.Valid ∧ [(1 : Byte)].length ≤ plainHash.blockLen ∧
    plainHash.blockLen < [(1 : Byte), 2].length :=
  ⟨⟨by decide, by decide, by decide, fun _ => rfl⟩, by decide, by decide⟩
theorem wit_GcmWrongTagNeverOpens :
    (zeros 16).length = 16 ∧ zeros 16 ≠ blockBytes (gcmTag plainCipher [] nonce1 [1]) ∧ ([] : Bytes).length < 16 := by
  decide +kernel
theorem wit_GcmUsesSixteenKeyBytes : 16 ≤ k1.length ∧ 16 ≤ (k1 ++ [9]).length ∧
    k1.take 16 = (k1 ++ [9]).take 16 ∧ k1 ≠ k1 ++ [9] := by decide
theorem wit_GcmRoundTrip :
    let s := busy 0x10 .wait k1 [] test4 (some nonce1)
    let u := busy 0x11 .run (k1 ++ [9]) [] f1 none
    s.phase = .wait ∧ AnswersWith s 12 nonce1 ∧ 16 ≤ s.keyLen.toNat ∧ u.lengthsOk params = true ∧
      16 ≤ u.keyLen.toNat ∧ u.keyBytes.take 16 = s.keyBytes.take 16 ∧ u.inBytes = f1 := by
  unfold AnswersWith; decide
theorem wit_CbcBlocksRoundTrip : plainCipher.Valid ∧ k1.length ∈ plainCipher.keyLens ∧ (zeros 32).length % 16 = 0 :=
  ⟨⟨by decide, fun _ _ _ => rfl⟩, by decide, by decide⟩
theorem wit_CbcRoundTrip :
    let s := busy 0x120 .wait ek ak test4 (some iv1)
    let u := busy 0x121 .run ek ak f2 none
    s.phase = .wait ∧ AnswersWith s 16 iv1 ∧ s.keyLen = 16 ∧ u.lengthsOk params = true ∧ u.keyBytes = s.keyBytes ∧
      u.akeyBytes = s.akeyBytes ∧ u.inBytes = f2 := by unfold AnswersWith; decide
/-- The outcome is the one of `test_cbc_dec_bad_mac`. -/
theorem wit_AuthFailureHidesTheKey :
    let s := busy 0x121 .run ek ak (f2.set 18 0xaa) none
    s.lengthsOk params = true ∧ ({ s with key := [], keyLen := 5 } : State).lengthsOk params = true ∧
      ∃ t, exec (.cbcDec 1) s = .next t ∧ t.err = some .authenticationFailed :=
  ⟨by decide, by decide, _, rfl, by decide +kernel⟩
theorem wit_CbcWrongMacFails : plainParams.ht 1 = some plainHash ∧ iv1.length = 16 ∧ ([] : Bytes).length ≤ 255 ∧
    [] ≠ hmac plainHash ak (iv1 ++ ct2) := ⟨rfl, by decide, by decide, by decide⟩
theorem wit_DifferentDrawsDifferentFrames :
    (gcmEncrypt plainCipher k1 [] ⟨true, nonce1⟩).toOption.isSome = true ∧
    (gcmEncrypt plainCipher k1 [] ⟨true, zeros 12⟩).toOption.isSome = true ∧ nonce1 ≠ zeros 12 ∧
    (cbcHmacEncrypt plainParams k1 [] [] 1 ⟨true, iv1⟩).toOption.isSome = true ∧
    (cbcHmacEncrypt plainParams k1 [] [] 1 ⟨true, zeros 16⟩).toOption.isSome = true ∧ iv1 ≠ zeros 16 := by
  decide +kernel
theorem wit_GenNonceCompletes :
    let s := busy 0x001 .run [] [] [] none
    let t := busy 0xC01 .wait [] [] [] (some nonce1)
    (s.phase = .run ∧ s.lengthsOk params = true) ∧ (12 : Byte) ≠ 0 ∧ t.phase = .wait ∧
      AnswersWith t (12 : Byte).toNat nonce1 := by unfold AnswersWith; decide
theorem wit_PadCompletes :
    let s := busy 0x402 .run [] [] [0x61, 0x62, 0x63, 0x64, 0x65] none
    (4 : Byte) ≠ 0 ∧ s.lengthsOk params = true ∧ 3 = (4 : Byte).toNat - s.inLen.toNat % (4 : Byte).toNat := by decide
theorem wit_UnpadCompletes :
    let s := busy 3 .run [] [] [0x61, 0x62, 3] none
    s.lengthsOk params = true ∧ s.inBytes = [0x61, 0x62] ++ [3] ∧ (3 : Byte).toNat ≤ s.inLen.toNat := by decide
theorem wit_GcmEncCompletes :
    let s := busy 0x10 .wait k1 [] test4 (some nonce1)
    s.phase = .wait ∧ AnswersWith s 12 nonce1 ∧ 16 ≤ s.keyLen.toNat := by unfold AnswersWith; decide
theorem wit_GcmDecCompletes :
    let s := busy 0x11 .run k1 [] f1 none
    s.lengthsOk params = true ∧ 16 ≤ s.keyLen.toNat ∧ nonce1.length = 12 ∧ s.inBytes = 12 :: (nonce1 ++ ct1) ∧
      gcmOpen aes (s.keyBytes.take 16) nonce1 ct1 = some test4 := by decide +kernel
theorem wit_CbcEncCompletes :
    let s := busy 0x120 .wait ek ak test4 (some iv1)
    s.phase = .wait ∧ AnswersWith s 16 iv1 ∧ params.ht 1 = some sha256Entry ∧ s.keyLen = 16 :=
  ⟨rfl, ⟨rfl, rfl⟩, rfl, rfl⟩
theorem wit_CbcDecCompletes :
    let s := busy 0x121 .run ek ak f2 none
    s.lengthsOk params = true ∧ s.keyLen = 16 ∧ iv1.length = 16 ∧
      s.inBytes = serializeCbcFrame iv1 (hmac sha256Entry s.akeyBytes (iv1 ++ ct2)) ct2 ∧ ct2.length ≠ 0 ∧
      ct2.length % 16 = 0 ∧ unpadBytes (cbcDecryptBlocks aes s.keyBytes iv1 ct2) = .ok test4 := by decide +kernel
theorem wit_EntropyRequests :
    drawLength (.genNonce 255) = some 255 ∧ drawLength .gcmEnc = some 12 ∧ drawLength (.cbcEnc 2) = some 16 ∧
    (let s := busy 0x220 .run ek ak test4 none
     s.phase = .run ∧ s.lengthsOk params = true ∧ 16 ≤ s.keyLen.toNat) ∧ params.ht 2 ≠ none ∧
    ReadyToDraw params (.genNonce 255) (busy 0xFF01 .run [] [] [] none) ∧ drawLength (.genNonce 0) = none :=
  ⟨rfl, rfl, rfl, by decide, by simp [params, defaultHashes], ⟨by simp, by simp⟩, rfl⟩
theorem wit_EntropyFailures :
    let s := busy 0x401 .wait [] [] [] (some [0xaa, 0xbb, 0xcc])
    drawLength (.genNonce 4) = some 4 ∧ s.phase = .wait ∧ AnswerFails s (4 : Byte).toNat ∧
      ReadyToDraw params (.genNonce 4) s :=
  ⟨rfl, rfl, ⟨_, rfl, .inr (by decide)⟩, ⟨by simp, by simp⟩⟩
/-- One past each capacity, and the capacities themselves, which pass. -/
theorem wit_LengthCheckComesFirst :
    let s := { busy 0xC01 .run [] [] [] none with inLen := 65536 }
    (.genNonce 12 : Instr) ≠ .clear ∧ s.phase = .run ∧ 65535 < s.inLen.toNat ∧
      256 < ({ s with keyLen := 257 } : State).keyLen.toNat ∧ 256 < ({ s with akeyLen := 257 } : State).akeyLen.toNat ∧
      ({ s with keyLen := 256, akeyLen := 256, inLen := 65535 } : State).lengthsOk params = true := by
  decide
theorem wit_PaddingErrors :
    let s := busy 3 .run [] [] [0x61, 0x62, 4] none
    s.lengthsOk params = true ∧ (busy 3 .run [] [] [] none).inLen = 0 ∧ s.inBytes = [0x61, 0x62] ++ [4] ∧
      s.inLen.toNat < (4 : Byte).toNat := by decide
/-- G10, G9, G11, G12, G13 and a wrong tag: one state for each clause. -/
theorem wit_GcmErrorOrder :
    let short := busy 0x10 .run (zeros 15) [] test4 none
    let frame := fun f => busy 0x11 .run k1 [] f none
    short.lengthsOk params = true ∧ short.keyLen.toNat < 16 ∧ short.phase = .run ∧
    (frame []).inLen = 0 ∧ (frame (11 :: zeros 40)).inBytes.head? ≠ some 12 ∧
    (frame (12 :: zeros 11)).inLen.toNat < 13 ∧ (frame (12 :: zeros 11)).lengthsOk params = true ∧
    (frame (12 :: (zeros 12 ++ zeros 15))).inBytes = 12 :: (zeros 12 ++ zeros 15) ∧
    gcmOpen aes ((frame (12 :: (zeros 12 ++ zeros 15))).keyBytes.take 16) (zeros 12) (zeros 15) = none := by
  decide +kernel
/-- B10, B18. -/
theorem wit_CbcEncErrorOrder :
    let s := busy 0x320 .run [] [] [] none
    let t := busy 0x120 .wait (zeros 5) ak test4 (some iv1)
    s.lengthsOk params = true ∧ (3 : Byte) ≠ 1 ∧ (3 : Byte) ≠ 2 ∧ s.phase = .run ∧ t.lengthsOk params = true ∧
      t.phase = .wait ∧ AnswersWith t 16 iv1 ∧ t.keyLen ≠ 16 ∧ t.keyLen ≠ 24 ∧ t.keyLen ≠ 32 := by
  unfold AnswersWith; decide
/-- B11 to B15, B17, B19: one state for each clause up to the key length. -/
theorem wit_CbcDecErrorOrder :
    let frame := fun f => busy 0x121 .run (zeros 5) ak f none
    params.ht 1 = some sha256Entry ∧ (frame f2).lengthsOk params = true ∧
    (frame []).inLen = 0 ∧ (frame (12 :: zeros 40)).inBytes.head? ≠ some 16 ∧ (frame (16 :: zeros 15)).inLen.toNat < 17 ∧
    (frame (16 :: zeros 16)).inBytes.head? = some 16 ∧ (frame (16 :: zeros 16)).inLen = 17 ∧
    (frame (16 :: (zeros 16 ++ 11 :: zeros 10))).inLen.toNat - 18 <
      ((frame (16 :: (zeros 16 ++ 11 :: zeros 10))).inBytes.getD 17 0).toNat ∧
    (frame (serializeCbcFrame iv1 [] ct2)).inBytes = serializeCbcFrame iv1 [] ct2 ∧
    [] ≠ hmac sha256Entry (frame f2).akeyBytes (iv1 ++ ct2) ∧
    (frame f2).inBytes = serializeCbcFrame iv1 mac2 ct2 ∧ mac2 = hmac sha256Entry (frame f2).akeyBytes (iv1 ++ ct2) ∧
    (frame f2).keyLen ≠ 16 ∧ (frame f2).keyLen ≠ 24 ∧ (frame f2).keyLen ≠ 32 :=
  ⟨rfl, by decide +kernel⟩
/-- B23 and B25: an empty ciphertext, and one whose last decrypted byte is too large, each with its MAC. -/
theorem wit_CbcDecErrorOrder_late :
    let ct := beBytes 16 0x3a21d1141516c2989f1a3f0bdde08a6a
    hmac sha256Entry ak (iv1 ++ ct) = beBytes 32 0xbc46376e412dc41e7d597a5634cfdde1fb9f56bafe768cb29492e3cdcf451197 ∧
    ct.length % 16 = 0 ∧ (unpadBytes (cbcDecryptBlocks aes ek iv1 ct)).toOption = none ∧
    hmac sha256Entry ak iv1 = beBytes 32 0x7536fd15de79f5a92314ca3fe1efb366a50d3c86b95786aa283cba5b74e7edef := by
  decide +kernel
theorem wit_CommandFrame :
    let s := busy 0x402 .run [] [] test4 none
    (.pad 4 : Instr) ≠ .clear ∧ s.lengthsOk params = true ∧
      ∃ t, exec (.pad 4) s = .next t ∧ t.engine = .done ∧ t.outLen.toNat ≤ 8 :=
  ⟨by decide, by decide, _, rfl, by decide, by decide⟩
/-- Two states that differ in `HAZ`, `CTRL` and a byte past `KEY_LEN`. -/
theorem wit_ResultDependsOnOperandsOnly :
    let s := busy 0x10 .wait k1 [] test4 (some nonce1)
    let t := { s with haz := true, ie := true, key := Memory.write s.key 20 7 }
    s ≠ t ∧ SameOperands s t ∧ InFlight s ∧ InFlight t :=
  ⟨by decide, ⟨rfl, rfl, rfl, rfl, by decide, rfl, rfl, rfl, rfl, rfl⟩, ⟨rfl, rfl, rfl, rfl⟩, ⟨rfl, rfl, rfl, rfl⟩⟩
/-- A state in which a request is outstanding meets the invariant. -/
theorem wit_StepKeepsInvariant : Inv params { busy 0x10 .wait k1 [] test4 none with rngN := 12 } where
  buffers := ⟨by decide, by decide, by decide, by decide, by decide, by decide, by decide, by decide, by decide⟩
  err_iff := by decide
  idle := by decide
  result := by decide
  resting := by decide
  running := by decide
  waiting := fun _ _ => ⟨⟨.gcmEnc, by decide, by decide⟩, by decide, by decide, fun sel h => absurd h (by decide +revert)⟩
  work := rfl
  answer := rfl
theorem wit_StepRunsTheCommand :
    let s := busy 0x10 .run k1 [] test4 none
    s.engine = .busy ∧ decode s.cmd = .ok .gcmEnc ∧ s.phase = .run ∧ s.inputs = [] ∧
      ({ s with inputs := [.engineTurn] } : State).inputs = .engineTurn :: [] ∧
      ({ s with phase := .wait, inputs := [.entropy 0 ⟨true, nonce1⟩] } : State).phase = .wait := by decide
/-- The invariant holds in the state of `wit_StepKeepsInvariant`, and its step answers. -/
theorem wit_StateChangesOnlyByTheTable : ∃ s t, Inv params s ∧ step s = .next t :=
  ⟨{ busy 0x10 .wait k1 [] test4 none with rngN := 12, inputs := [.reset] }, _,
    { buffers := ⟨by decide, by decide, by decide, by decide, by decide, by decide, by decide, by decide, by decide⟩
      err_iff := by decide
      idle := by decide
      result := by decide
      resting := by decide
      running := by decide
      waiting := fun _ _ => ⟨⟨.gcmEnc, by decide, by decide⟩, by decide, by decide,
        fun sel h => absurd h (by decide +revert)⟩
      work := rfl
      answer := rfl }, rfl⟩
theorem wit_OperationEndsInTwoSteps :
    let s := { busy 0x10 .run k1 [] test4 none with inputs := [.engineTurn, .entropy 0 ⟨false, []⟩] }
    s.engine = .busy ∧ s.phase = .run ∧ s.inputs = .engineTurn :: .entropy s.resets ⟨false, []⟩ :: [] := by decide
theorem wit_CommandStart :
    let s := { State.reset with inputs := [.writeReg 0 0x10] }
    s.engine ≠ .busy ∧ s.inputs = .writeReg 0 0x10 :: [] := by decide
/-- Numbers at the edges of the clauses: 0, 2, 3, 6, 7 and 8. -/
theorem wit_RegisterWrites : State.reset.engine ≠ .busy ∧
    (hostWriteReg State.reset 0 0x11).engine = .busy ∧ (hostWriteReg State.reset 0 0x11).cmd = 0x11 ∧
    hostWriteReg State.reset 2 1 = State.reset ∧ (hostWriteReg State.reset 3 2).ie = false ∧
    (hostWriteReg State.reset 6 0xFFFFFFFF).inLen = 0xFFFFFFFF ∧ hostWriteReg State.reset 7 1 = State.reset ∧
    hostWriteReg State.reset 8 1 = State.reset :=
  ⟨by decide, by decide, by decide, rfl, by decide, by decide, rfl, rfl⟩
/-- An index just below and one just at the capacity of `KEY`, and the last byte `OUT` can hold. -/
theorem wit_BufferAccesses : State.reset.engine ≠ .busy ∧ Memory.read (hostWriteBuf params State.reset 0 255 7).key 255 = 7 ∧
    Memory.read (hostWriteBuf params State.reset 0 256 7).key 256 = 0 ∧
    Memory.read (hostWriteBuf params State.reset 1 255 7).akey 255 = 7 ∧ hostWriteBuf params State.reset 1 256 7 = State.reset ∧
    hostReadBuf params (hostWriteBuf params State.reset 2 65534 7) 2 65534 = 7 ∧
    hostWriteBuf params State.reset 2 65535 7 = State.reset ∧ hostWriteBuf params State.reset 3 0 7 = State.reset ∧
    hostReadBuf params { State.reset with out := [(65789, 7)] } 3 65789 = 7 ∧
    hostReadBuf params { State.reset with out := [(65790, 7)] } 3 65790 = 0 :=
  ⟨by decide, by decide, by decide, by decide, rfl, by decide, rfl, rfl, by decide, by decide⟩
/-- Numbers and buffers at the edges of the clauses. -/
theorem wit_BusyAccesses :
    let s := busy 0x10 .run k1 [] test4 none
    s.engine = .busy ∧ (hostWriteReg s 0 0).haz = true ∧ (hostWriteReg s 6 0).haz = true ∧ hostWriteReg s 7 0 = s ∧
      hostWriteReg s 2 0 = s ∧ (hostWriteReg s 3 1).ie = true ∧ (hostWriteBuf params s 2 70000 0).haz = true ∧
      hostWriteBuf params s 3 0 0 = s ∧ hostReadBuf params s 2 0 = 0 :=
  ⟨rfl, by decide, by decide, rfl, rfl, by decide, by decide, rfl, by decide⟩
theorem wit_ReadsChangeNothing :
    ({ State.reset with inputs := [.readReg 9] } : State).inputs = .readReg 9 :: [] ∧
    ({ State.reset with inputs := [.readBuf 2 0] } : State).inputs = .readBuf 2 0 :: [] := by decide
theorem wit_InterruptIsALevel :
    State.reset.engine ≠ .busy ∧ ∃ t, exec .clear { State.reset with ie := true } = .next t := ⟨by decide, _, rfl⟩
theorem wit_ResetAndLateAnswers :
    let late := { busy 0x10 .wait k1 [] test4 none with resets := 1, inputs := [.entropy 0 ⟨true, nonce1⟩] }
    ({ State.reset with inputs := [.reset] } : State).inputs = .reset :: [] ∧
    ({ State.reset with inputs := [.entropy 0 ⟨true, []⟩] } : State).inputs = .entropy 0 ⟨true, []⟩ :: [] ∧
    ¬ (State.reset.engine = .busy ∧ State.reset.phase = .wait) ∧
    (late.engine = .busy ∧ late.phase = .wait) ∧ late.inputs = .entropy 0 ⟨true, nonce1⟩ :: [] ∧ 0 ≠ late.resets := by
  decide
theorem wit_HostCannotDisturbOperation :
    let s := { busy 0x10 .wait k1 [] test4 none with inputs := [.writeBuf 2 0 0xff] }
    s.engine = .busy ∧ s.inputs = .writeBuf 2 0 0xff :: [] ∧ Input.isHostAccess (.writeBuf 2 0 0xff) = true := by decide

end Tests
end Sys2Proof
end

section
/-! The default parameters meet their constraints (spec 00_scope.md R13): the lengths of the hashes, and AES decryption
undoing encryption step by step of the cipher. -/

namespace Sys2Proof
namespace Machine

/-! ### Lengths of the hash functions (R270) -/

theorem length_shaCompress {w : Nat} (alg : Sha2 w) (hs : List (BitVec w)) (b : Bytes) (h : hs.length = 8) :
    (shaCompress alg hs b).length = 8 := by simp [shaCompress, shaVarsList, h]

theorem length_foldl_shaCompress {w : Nat} (alg : Sha2 w) (bs : List Bytes) (hs : List (BitVec w))
    (h : hs.length = 8) : (bs.foldl (shaCompress alg) hs).length = 8 := by
  induction bs generalizing hs with
  | nil => exact h
  | cons b bs ih => exact ih _ (length_shaCompress alg hs b h)

/-- A hash is eight words long. -/
theorem length_shaHash {w : Nat} (alg : Sha2 w) (h : alg.init.length = 8) (m : Bytes) :
    (shaHash alg m).length = 8 * (w / 8) := by
  simp only [shaHash, List.length_flatMap, length_beBytes, List.map_const', List.sum_replicate_nat,
    length_foldl_shaCompress _ _ _ h]

theorem sha256_valid : Config.HashAlg.Valid { digestLen := 32, blockLen := 64, hash := sha256 } where
  digest_pos := by decide
  digest_le_64 := by decide
  digest_le_blk := by decide
  hash_length := length_shaHash sha256Alg rfl

theorem sha512_valid : Config.HashAlg.Valid { digestLen := 64, blockLen := 128, hash := sha512 } where
  digest_pos := by decide
  digest_le_64 := by decide
  digest_le_blk := by decide
  hash_length := length_shaHash sha512Alg rfl

theorem defaultHashes_valid (sel : Byte) (h : Config.HashAlg) (hs : defaultHashes sel = some h) : h.Valid := by
  unfold defaultHashes at hs
  split_ifs at hs <;> cases hs
  · exact sha256_valid
  · exact sha512_valid

/-! ### AES decryption undoes encryption (44_block_cipher.md R241) -/

theorem invSbox_sbox (a : Byte) : invSbox (sbox a) = a := by revert a; decide +kernel

@[simp] theorem invSubBytes_subBytes (s : Block) : invSubBytes (subBytes s) = s := by
  rw [invSubBytes, subBytes, blockBytes_blockOf _ (by simp), List.map_map,
    (funext invSbox_sbox : invSbox ∘ sbox = id), List.map_id, blockOf_blockBytes]

/-- A string of `n` bytes is its `n` entries. -/
theorem map_getD_range {b : Bytes} {n : Nat} (h : b.length = n) : (List.range n).map (fun i => b.getD i 0) = b := by
  apply List.ext_getElem (by simp [h])
  intro i h1 h2
  simp [h2]

/-- The bytes of a permuted block. -/
theorem blockBytes_permuteBytes (idx : List Nat) (s : Block) (h : idx.length = 16) :
    blockBytes (permuteBytes idx s) = idx.map fun i => (blockBytes s).getD i 0 :=
  blockBytes_blockOf _ (by simpa using h)

/-- The two index lists undo each other, whatever the 16 bytes are. -/
theorem map_invShiftRowsIndex_shiftRowsIndex (f : Nat → Byte) :
    (invShiftRowsIndex.map fun i => (shiftRowsIndex.map f).getD i 0) = (List.range 16).map f := rfl

@[simp] theorem invShiftRows_shiftRows (s : Block) : invShiftRows (shiftRows s) = s := by
  have h := blockBytes_permuteBytes shiftRowsIndex s rfl
  rw [invShiftRows, permuteBytes, shiftRows, h, map_invShiftRowsIndex_shiftRowsIndex,
    map_getD_range (length_blockBytes s), blockOf_blockBytes]

theorem xtime_xor (a b : Byte) : xtime (a ^^^ b) = xtime a ^^^ xtime b := by
  have cancel (c d : Byte) : c ^^^ d = (c ^^^ 0x1b) ^^^ (d ^^^ 0x1b) := by
    calc c ^^^ d = (c ^^^ d) ^^^ (0x1b ^^^ 0x1b) := by simp
      _ = (c ^^^ 0x1b) ^^^ (d ^^^ 0x1b) := by ac_rfl
  unfold xtime
  rw [BitVec.getLsbD_xor, BitVec.shiftLeft_xor_distrib]
  cases a.getLsbD 7 <;> cases b.getLsbD 7
  · simp
  · simp; ac_rfl
  · simp; ac_rfl
  · simpa using cancel _ _

/-- The loop body of `mul8` (R244). -/
def mul8Step (c : Byte) (st : Byte × Byte) (i : Nat) : Byte × Byte :=
  (if c.getLsbD i then st.1 ^^^ st.2 else st.1, xtime st.2)

theorem mul8_eq_foldl (a c : Byte) : mul8 a c = ((List.range 8).foldl (mul8Step c) (0, a)).1 := rfl

theorem mul8Step_xor (c y z a b : Byte) (i : Nat) :
    mul8Step c (y ^^^ z, a ^^^ b) i =
      ((mul8Step c (y, a) i).1 ^^^ (mul8Step c (z, b) i).1, (mul8Step c (y, a) i).2 ^^^ (mul8Step c (z, b) i).2) := by
  unfold mul8Step
  rw [xtime_xor]
  split
  · simp only [Prod.mk.injEq, and_true]; ac_rfl
  · rfl

theorem foldl_mul8Step_xor (c : Byte) (l : List Nat) (y z a b : Byte) :
    (l.foldl (mul8Step c) (y ^^^ z, a ^^^ b)).1 =
      (l.foldl (mul8Step c) (y, a)).1 ^^^ (l.foldl (mul8Step c) (z, b)).1 := by
  induction l generalizing y z a b with
  | nil => rfl
  | cons i l ih => rw [List.foldl_cons, mul8Step_xor, ih]; rfl

/-- Multiplication by a fixed byte is linear. -/
theorem mul8_xor (a b c : Byte) : mul8 (a ^^^ b) c = mul8 a c ^^^ mul8 b c := by
  have h := foldl_mul8Step_xor c (List.range 8) 0 0 a b
  rwa [BitVec.xor_self] at h

/-! The first row of the matrix of `InvMixColumns` times the four columns of the matrix of `MixColumns` (R250). -/

theorem invMix_mix_diagonal (a : Byte) :
    mul8 (mul8 a 2) 14 ^^^ mul8 a 11 ^^^ mul8 a 13 ^^^ mul8 (mul8 a 3) 9 = a := by revert a; decide +kernel

theorem invMix_mix_second (a : Byte) :
    mul8 (mul8 a 3) 14 ^^^ mul8 (mul8 a 2) 11 ^^^ mul8 a 13 ^^^ mul8 a 9 = 0 := by revert a; decide +kernel

theorem invMix_mix_third (a : Byte) :
    mul8 a 14 ^^^ mul8 (mul8 a 3) 11 ^^^ mul8 (mul8 a 2) 13 ^^^ mul8 a 9 = 0 := by revert a; decide +kernel

theorem invMix_mix_fourth (a : Byte) :
    mul8 a 14 ^^^ mul8 a 11 ^^^ mul8 (mul8 a 3) 13 ^^^ mul8 (mul8 a 2) 9 = 0 := by revert a; decide +kernel

/-- The first byte of `InvMixColumns` after `MixColumns`; the other three are this one on the rotated column. -/
theorem invMix_mix_first (a b c d : Byte) :
    mul8 (mul8 a 2 ^^^ mul8 b 3 ^^^ c ^^^ d) 14 ^^^ mul8 (a ^^^ mul8 b 2 ^^^ mul8 c 3 ^^^ d) 11 ^^^
      mul8 (a ^^^ b ^^^ mul8 c 2 ^^^ mul8 d 3) 13 ^^^ mul8 (mul8 a 3 ^^^ b ^^^ c ^^^ mul8 d 2) 9 = a := by
  simp only [mul8_xor]
  calc _ = (mul8 (mul8 a 2) 14 ^^^ mul8 a 11 ^^^ mul8 a 13 ^^^ mul8 (mul8 a 3) 9) ^^^
        (mul8 (mul8 b 3) 14 ^^^ mul8 (mul8 b 2) 11 ^^^ mul8 b 13 ^^^ mul8 b 9) ^^^
        (mul8 c 14 ^^^ mul8 (mul8 c 3) 11 ^^^ mul8 (mul8 c 2) 13 ^^^ mul8 c 9) ^^^
        (mul8 d 14 ^^^ mul8 d 11 ^^^ mul8 (mul8 d 3) 13 ^^^ mul8 (mul8 d 2) 9) := by ac_rfl
    _ = a := by rw [invMix_mix_diagonal, invMix_mix_second, invMix_mix_third, invMix_mix_fourth]; simp

theorem invMixColumn_mixColumn (a b c d m0 m1 m2 m3 : Byte) (h : mixColumn a b c d = [m0, m1, m2, m3]) :
    invMixColumn m0 m1 m2 m3 = [a, b, c, d] := by
  simp only [mixColumn, List.cons.injEq, and_true] at h
  obtain ⟨rfl, rfl, rfl, rfl⟩ := h
  simp only [invMixColumn, List.cons.injEq, and_true]
  exact ⟨invMix_mix_first a b c d, .trans (by ac_rfl) (invMix_mix_first b c d a),
    .trans (by ac_rfl) (invMix_mix_first c d a b), .trans (by ac_rfl) (invMix_mix_first d a b c)⟩

/-- `InvMixColumns` undoes `MixColumns` on each column. -/
theorem onColumns_invMixColumn_mixColumn (b : Bytes) (h : b.length % 4 = 0) :
    onColumns invMixColumn (onColumns mixColumn b) = b := by
  match b with
  | [] => rfl
  | a0 :: a1 :: a2 :: a3 :: rest =>
    have ih := onColumns_invMixColumn_mixColumn rest (by simp only [List.length_cons] at h; omega)
    calc onColumns invMixColumn (onColumns mixColumn (a0 :: a1 :: a2 :: a3 :: rest))
      _ = invMixColumn _ _ _ _ ++ onColumns invMixColumn (onColumns mixColumn rest) := rfl
      _ = [a0, a1, a2, a3] ++ rest := by rw [invMixColumn_mixColumn a0 a1 a2 a3 _ _ _ _ rfl, ih]
  | [_] | [_, _] | [_, _, _] => simp at h

theorem length_onColumns_mixColumn (b : Bytes) (h : b.length % 4 = 0) : (onColumns mixColumn b).length = b.length := by
  match b with
  | [] => rfl
  | _ :: _ :: _ :: _ :: rest =>
    have ih := length_onColumns_mixColumn rest (by simp only [List.length_cons] at h; omega)
    simp [onColumns, mixColumn, ih]
  | [_] | [_, _] | [_, _, _] => simp at h

@[simp] theorem invMixColumns_mixColumns (s : Block) : invMixColumns (mixColumns s) = s := by
  have hlen : (blockBytes s).length % 4 = 0 := by simp
  rw [invMixColumns, mixColumns, blockBytes_blockOf _ (by simp [length_onColumns_mixColumn _ hlen]),
    onColumns_invMixColumn_mixColumn _ hlen, blockOf_blockBytes]

@[simp] theorem addRoundKey_addRoundKey (s rk : Block) : addRoundKey (addRoundKey s rk) rk = s := by
  simp [addRoundKey]

theorem encRounds_cons (rk : Block) (rks : List Block) (h : rks ≠ []) (s : Block) :
    encRounds (rk :: rks) s = encRounds rks (addRoundKey (mixColumns (shiftRows (subBytes s))) rk) := by
  cases rks with
  | nil => exact absurd rfl h
  | cons _ _ => rfl

theorem decRounds_cons (rk : Block) (rks : List Block) (h : rks ≠ []) (s : Block) :
    decRounds (rk :: rks) s =
      decRounds rks (invMixColumns (addRoundKey (invSubBytes (invShiftRows s)) rk)) := by
  cases rks with
  | nil => exact absurd rfl h
  | cons _ _ => rfl

/-- The rounds of `AesDecrypt` undo those of `AesEncrypt`, the last one first: after the last round key `l` is taken
off, the middle round keys `mid` are used up in reverse and the state before all of these rounds is back, but for
`SubBytes` and `ShiftRows` of the first, which belong to the next round of `AesDecrypt`. -/
theorem decRounds_encRounds (mid rest : List Block) (l s : Block) (hrest : rest ≠ []) :
    decRounds (mid.reverse ++ rest) (addRoundKey (encRounds (mid ++ [l]) s) l) =
      decRounds rest (shiftRows (subBytes s)) := by
  induction mid generalizing s rest with
  | nil => simp [encRounds]
  | cons rk mid ih =>
    have hmid : mid ++ [l] ≠ [] := by simp
    rw [List.reverse_cons, List.append_assoc, List.singleton_append, List.cons_append, encRounds_cons rk _ hmid,
      ih (rk :: rest) _ (by simp), decRounds_cons rk rest hrest]
    simp

/-- R241. It needs nothing of the key schedule: any list of round keys is undone by the same list reversed. -/
theorem aesDecrypt_aesEncrypt (k : Bytes) (x : Block) : aesDecrypt k (aesEncrypt k x) = x := by
  unfold aesDecrypt aesEncrypt
  cases roundKeys k with
  | nil => rfl
  | cons rk0 rks =>
    rcases List.eq_nil_or_concat' rks with rfl | ⟨mid, l, rfl⟩
    · simp [encRounds, decRounds]
    · have h := decRounds_encRounds mid [rk0] l (addRoundKey x rk0) (by simp)
      simp only [List.reverse_cons, List.reverse_append, List.reverse_nil, List.nil_append, List.cons_append]
      rw [h]
      simp [decRounds]

theorem aes_valid : aes.Valid where
  takes16 := by decide
  inverse := fun k x _ => aesDecrypt_aesEncrypt k x

end Machine
end Sys2Proof
end

section
/-! Every step of the machine keeps the invariant: the word a decoded instruction comes from, how long each operation's
result can be, the single updates that keep the invariant, what the two engine-side steps of a command can do, and the
step of each agent. -/

namespace Sys2Proof
namespace Machine

/-! ### Decoded words (30_encoding.md R90, R93) -/

/-- A word is made of its three fields (R90). -/
@[simp] theorem wordOf_fieldsOf (w : Word) : wordOf (fieldsOf w) = w := by
  have hi : w.extractLsb' 16 16 ++ w.extractLsb' 8 8 = w.extractLsb' 8 24 :=
    BitVec.extractLsb'_append_extractLsb'_eq_extractLsb' rfl
  have lo : w.extractLsb' 8 24 ++ w.extractLsb' 0 8 = w.extractLsb' 0 32 :=
    BitVec.extractLsb'_append_extractLsb'_eq_extractLsb' rfl
  simp [wordOf, fieldsOf, hi, lo]

theorem noArg_eq_ok (arg : Byte) (i j : Instr) : noArg arg i = .ok j ↔ arg = 0 ∧ i = j := by
  unfold noArg
  split <;> simp_all

/-- The operation codes are the ones the instructions are written with (R91). -/
theorem fields_of_decodeOp (op arg : Byte) (i : Instr) (h : decodeOp op arg = .ok i) :
    i.fields = { op := op, arg := arg, rsv := 0 } := by
  unfold decodeOp at h
  repeat' split at h
  all_goals simp_all [noArg_eq_ok]
  all_goals obtain ⟨rfl, rfl⟩ := h
  all_goals rfl

/-- A legal word is the word of the instruction it decodes to (R93, R97). -/
theorem eq_encode_of_decode (w : Word) (i : Instr) (h : decode w = .ok i) : w = encode i := by
  simp only [decode] at h
  split at h
  · rename_i hrsv
    rw [encode, fields_of_decodeOp _ _ i h, ← hrsv, wordOf_fieldsOf]
  · cases h

/-! ### How long a result can be (R14) -/

theorem generateNonce_length (n : Nat) (a : Config.EntropyAnswer) (b : Bytes) (h : generateNonce n a = .ok b) :
    b.length = n := by
  unfold generateNonce at h
  split_ifs at h with h0 ha
  · cases h; exact h0.symm
  · cases h; exact ha.2

theorem length_padBytes_le (data : Bytes) (bs : Nat) : (padBytes data bs).length ≤ data.length + bs := by
  simp [padBytes, padCount]

theorem padResult_length_le (bs : Byte) (data out : Bytes) (h : padResult bs data = .ok out) :
    out.length ≤ data.length + 255 := by
  unfold padResult at h
  split at h
  · cases h
  · cases h
    have := length_padBytes_le data bs.toNat
    have := bs.isLt
    omega

theorem unpadBytes_length_le (data out : Bytes) (h : unpadBytes data = .ok out) : out.length ≤ data.length := by
  unfold unpadBytes at h
  split at h
  · cases h
  · split at h
    · cases h
    · cases h; simp

theorem length_serializeGcmFrame (nonce ct : Bytes) :
    (serializeGcmFrame nonce ct).length = 1 + nonce.length + ct.length := by
  simp [serializeGcmFrame]; omega

theorem parseGcmFrame_ct_length_le (f : Bytes) (g : GcmFrame) (h : parseGcmFrame f = .ok g) :
    g.ct.length ≤ f.length := by
  unfold parseGcmFrame at h
  split at h
  · cases h
  · split_ifs at h
    cases h
    simp; omega

@[simp] theorem length_gcmSeal (bc : Config.BlockCipher) (k nonce pt : Bytes) :
    (gcmSeal bc k nonce pt).length = pt.length + 16 := by simp [gcmSeal]

theorem gcmOpen_length_le (bc : Config.BlockCipher) (k nonce ct pt : Bytes) (h : gcmOpen bc k nonce ct = some pt) :
    pt.length ≤ ct.length := by
  simp only [gcmOpen] at h
  split_ifs at h
  cases h; simp

/-- A GCM frame is 29 bytes longer than its plaintext (R101, R175). -/
theorem gcmEncrypt_length (bc : Config.BlockCipher) (key pt : Bytes) (a : Config.EntropyAnswer) (out : Bytes)
    (h : gcmEncrypt bc key pt a = .ok out) : out.length = pt.length + 29 := by
  unfold gcmEncrypt at h
  split at h
  · cases h
  · split at h
    · cases h
    · rename_i nonce hn
      cases h
      rw [length_serializeGcmFrame, generateNonce_length 12 a nonce hn, length_gcmSeal]; omega

theorem gcmDecrypt_length_le (bc : Config.BlockCipher) (key frame out : Bytes)
    (h : gcmDecrypt bc key frame = .ok out) : out.length ≤ frame.length := by
  unfold gcmDecrypt at h
  split at h
  · cases h
  · split at h
    · cases h
    · rename_i f hf
      split at h
      · cases h
      · rename_i pt hpt
        cases h
        exact (gcmOpen_length_le _ _ _ _ _ hpt).trans (parseGcmFrame_ct_length_le frame f hf)

theorem length_serializeCbcFrame (iv mac ct : Bytes) :
    (serializeCbcFrame iv mac ct).length = 2 + iv.length + mac.length + ct.length := by
  simp [serializeCbcFrame]; omega

theorem parseCbcFrame_ct_length_le (f : Bytes) (g : CbcFrame) (h : parseCbcFrame f = .ok g) :
    g.ct.length ≤ f.length := by
  unfold parseCbcFrame at h
  split at h
  · cases h
  · simp only at h
    split_ifs at h
    cases h; simp

theorem length_cbcEncryptBlocks_le (bc : Config.BlockCipher) (k iv pt : Bytes) :
    (cbcEncryptBlocks bc k iv pt).length ≤ pt.length := by
  simp [cbcEncryptBlocks]; omega

theorem length_cbcDecryptBlocks_le (bc : Config.BlockCipher) (k iv ct : Bytes) :
    (cbcDecryptBlocks bc k iv ct).length ≤ ct.length := by
  simp [cbcDecryptBlocks]; omega

/-- An HMAC is as long as the digest of its hash (R276). -/
theorem length_hmac (h : Config.HashAlg) (hv : h.Valid) (key msg : Bytes) :
    (hmac h key msg).length = h.digestLen := hv.hash_length _

/-- A CBC-HMAC frame is at most 98 bytes longer than its plaintext: 1 + 16 for the IV, 1 + 64 for the MAC, 16 of
padding (R13, R105). -/
theorem cbcHmacEncrypt_length_le (p : Config.Params) (hp : p.Valid) (encKey authKey pt : Bytes) (sel : Byte)
    (a : Config.EntropyAnswer) (out : Bytes) (h : cbcHmacEncrypt p encKey authKey pt sel a = .ok out) :
    out.length ≤ pt.length + 98 := by
  unfold cbcHmacEncrypt at h
  split at h
  · cases h
  · rename_i alg halg
    split at h
    · cases h
    · rename_i iv hiv
      split at h
      · cases h
      · cases h
        have hv := hp.ht_valid sel alg halg
        have hct := length_cbcEncryptBlocks_le p.bc encKey iv (padBytes pt 16)
        have hpad := length_padBytes_le pt 16
        have hdig := hv.digest_le_64
        rw [length_serializeCbcFrame, generateNonce_length 16 a iv hiv, length_hmac alg hv]
        omega

theorem cbcHmacDecrypt_length_le (p : Config.Params) (encKey authKey frame : Bytes) (sel : Byte) (out : Bytes)
    (h : cbcHmacDecrypt p encKey authKey frame sel = .ok out) : out.length ≤ frame.length := by
  unfold cbcHmacDecrypt at h
  split at h
  · cases h
  · split at h
    · cases h
    · rename_i f hf
      split_ifs at h
      exact (unpadBytes_length_le _ _ h).trans
        ((length_cbcDecryptBlocks_le _ _ _ _).trans (parseCbcFrame_ct_length_le frame f hf))

/-! ### Steps that keep the invariant: the host's accesses, the completions, the request -/

variable {p : Config.Params} {s t : State}

/-- What is not the engine's is free, and so is `HAZ` outside `IDLE`. -/
theorem Inv.withOutside (h : Inv p s) (es : List Input) (v : Word) (ie : Bool) (n : Nat) (haz : Bool)
    (hidle : s.engine = .idle → haz = false) :
    Inv p { s with inputs := es, readData := v, ie := ie, ticks := n, haz := haz } :=
  { h with
    buffers := { h.buffers with }
    idle := fun hi => ⟨(h.idle hi).1, hidle hi⟩
    waiting := fun hb hw => { h.waiting hb hw with } }

/-- `Inv.withOutside` where only the script moves on. -/
theorem Inv.withInputs (h : Inv p s) (es : List Input) : Inv p { s with inputs := es } :=
  h.withOutside es s.readData s.ie s.ticks s.haz fun hi => (h.idle hi).2

/-- `Inv.withOutside` for a host read. -/
theorem Inv.withReadData (h : Inv p s) (v : Word) : Inv p { s with readData := v } :=
  h.withOutside s.inputs v s.ie s.ticks s.haz fun hi => (h.idle hi).2

/-- A write that a busy engine drops (R65). -/
theorem Inv.dropped (h : Inv p s) (hb : s.engine = .busy) : Inv p s.dropped :=
  h.withOutside s.inputs s.readData s.ie s.ticks true fun hi => absurd (hb.symm.trans hi) (by decide)

/-- Only the engine that is not busy takes the write (R65). -/
theorem Inv.unlessBusy (h : Inv p s) (ht : s.engine ≠ .busy → Inv p t) : Inv p (s.unlessBusy t) := by
  by_cases hb : s.engine = .busy
  · rw [State.unlessBusy_of_busy s t hb]; exact h.dropped hb
  · rw [State.unlessBusy_of_not_busy s t hb]; exact ht hb

/-- While no operation runs the operand lengths are free: they are checked when one starts (R27, R304). -/
theorem Inv.withLengths (h : Inv p s) (hb : s.engine ≠ .busy) (kl al il : Word) :
    Inv p { s with keyLen := kl, akeyLen := al, inLen := il } :=
  { h with
    buffers := { h.buffers with }
    waiting := fun hb' => absurd hb' hb }

theorem Inv.withBuffers (h : Inv p s) (k a i : Memory)
    (hbuf : BuffersOk p { s with key := k, akey := a, inp := i }) :
    Inv p { s with key := k, akey := a, inp := i } :=
  { h with
    buffers := hbuf
    waiting := fun hb hw => { h.waiting hb hw with } }

/-- The start of a command (R302) wipes the last result and rests the sequencer. -/
theorem Inv.startCommand (h : Inv p s) (w : Word) : Inv p (s.startCommand w) :=
  { h with
    buffers := { h.buffers with out_wf := rfl, out_len := rfl, out_cap := Nat.zero_le _ }
    err_iff := by simp
    idle := fun hi => by cases hi
    result := fun _ => ⟨rfl, rfl⟩
    resting := fun hb => absurd rfl hb
    running := fun _ => rfl
    waiting := fun _ hw => by cases hw }

theorem Inv.hostWriteReg (h : Inv p s) (n : Nat) (v : Word) : Inv p (hostWriteReg s n v) := by
  unfold Machine.hostWriteReg
  split
  · exact h.unlessBusy fun _ => h.startCommand v
  · exact h.withOutside s.inputs s.readData (v.getLsbD 0) s.ticks s.haz fun hi => (h.idle hi).2
  · exact h.unlessBusy fun hb => h.withLengths hb v s.akeyLen s.inLen
  · exact h.unlessBusy fun hb => h.withLengths hb s.keyLen v s.inLen
  · exact h.unlessBusy fun hb => h.withLengths hb s.keyLen s.akeyLen v
  · exact h

theorem Inv.hostWriteBuf (h : Inv p s) (id i : Nat) (v : Byte) : Inv p (hostWriteBuf p s id i v) := by
  have hb := h.buffers
  unfold Machine.hostWriteBuf
  split
  · exact h.unlessBusy fun _ => h.withBuffers _ s.akey s.inp
      { hb with
        key_wf := Memory.wf_storeBelow _ _ i v hb.key_wf, key_cap := Memory.below_storeBelow _ _ i v hb.key_cap }
  · exact h.unlessBusy fun _ => h.withBuffers s.key _ s.inp
      { hb with
        akey_wf := Memory.wf_storeBelow _ _ i v hb.akey_wf, akey_cap := Memory.below_storeBelow _ _ i v hb.akey_cap }
  · exact h.unlessBusy fun _ => h.withBuffers s.key s.akey _
      { hb with
        inp_wf := Memory.wf_storeBelow _ _ i v hb.inp_wf, inp_cap := Memory.below_storeBelow _ _ i v hb.inp_cap }
  · exact h

/-- Reset meets the invariant, whatever the state before it (R36, R360). -/
theorem inv_doReset (p : Config.Params) (s : State) : Inv p s.doReset where
  buffers := ⟨rfl, rfl, rfl, rfl, rfl, rfl, rfl, rfl, Nat.zero_le _⟩
  err_iff := by simp [State.reset]
  idle := fun _ => ⟨rfl, rfl⟩
  result := fun _ => ⟨rfl, rfl⟩
  resting := fun _ => rfl
  running := fun _ => rfl
  waiting := fun hb => by cases hb
  work := rfl
  answer := rfl

/-- The ends of an operation in `s`: a result no longer than `OUT`, an error, or `CLEAR`. -/
inductive Completion (p : Config.Params) (s : State) : State → Prop where
  | done (out : Bytes) (hlen : out.length ≤ p.outMax) : Completion p s (s.finishOk out)
  | failed (e : EngineError) : Completion p s (s.finishErr e)
  | cleared (hcmd : s.cmd = 0) : Completion p s s.finishClear

theorem Completion.finish (p : Config.Params) (s : State) (r : Except EngineError Bytes)
    (hlen : ∀ out, r = .ok out → out.length ≤ p.outMax) : Completion p s (s.finish r) := by
  cases r with
  | ok out => exact .done out (hlen out rfl)
  | error e => exact .failed e

/-- Every completion wipes the operands and rests the sequencer (R33): what is left to show is about `ERR`, `CMD`,
`HAZ` and the result. -/
theorem inv_clearOperands (p : Config.Params) (u : State) (hb : u.engine ≠ .busy)
    (herr : u.err ≠ none ↔ u.engine = .error) (hidle : u.engine = .idle → u.cmd = 0 ∧ u.haz = false)
    (hres : u.engine ≠ .done → u.out = [] ∧ u.outLen = 0) (hwf : Memory.wf u.out = true)
    (hlen : Memory.below u.out u.outLen.toNat = true) (hcap : u.outLen.toNat ≤ p.outMax) : Inv p u.clearOperands where
  buffers := ⟨rfl, rfl, rfl, hwf, rfl, rfl, rfl, hlen, hcap⟩
  err_iff := herr
  idle := hidle
  result := hres
  resting := fun _ => rfl
  running := fun _ => rfl
  waiting := fun hb' => absurd hb' hb
  work := rfl
  answer := rfl

theorem outMax_lt_of_valid (hp : p.Valid) : p.outMax < 2 ^ 32 := by
  have := hp.inMax_le
  unfold Config.Params.outMax
  omega

/-- A state in which an operation has ended meets the invariant: `OUT` was empty, so it holds the result only. -/
theorem Completion.inv (h : Completion p s t) (hp : p.Valid) (hout : s.out = []) : Inv p t := by
  cases h with
  | done out hlen =>
    have hnat : (BitVec.ofNat 32 out.length).toNat = out.length :=
      by
      rw [BitVec.toNat_ofNat, Nat.mod_eq_of_lt (hlen.trans_lt (outMax_lt_of_valid hp))]
    refine inv_clearOperands p _ ?_ ?_ ?_ ?_ ?_ ?_ ?_
    · simp
    · simp
    · simp
    · simp
    · exact Memory.wf_writeBytes _ 0 out (hout ▸ rfl)
    · exact Memory.below_writeBytes _ 0 out _ (hout ▸ rfl) (by simp [hnat])
    · simpa [hnat] using hlen
  | failed e =>
    exact inv_clearOperands p _ (by simp) (by simp) (by simp) (fun _ => ⟨rfl, rfl⟩) rfl rfl (Nat.zero_le _)
  | cleared hcmd =>
    exact inv_clearOperands p { s with out := [], outLen := 0, err := none, haz := false, engine := .idle }
      (by simp) (by simp) (fun _ => ⟨hcmd, rfl⟩) (fun _ => ⟨rfl, rfl⟩) rfl rfl (Nat.zero_le _)

/-- A busy engine in `P_RUN` that asks for bytes meets the invariant when the request is the operation's (R303). -/
theorem Inv.need (h : Inv p s) (hb : s.engine = .busy) (n : Byte) (hw : WaitOk p (s.need n)) : Inv p (s.need n) :=
  { h with
    buffers := { h.buffers with }
    resting := fun hb' => absurd hb hb'
    running := fun hr => by cases hr
    waiting := fun _ _ => hw }

/-! ### The two engine-side steps (46_system_commands.md R303) -/

/-- After the length check: the error, or what the operation's own steps do (R304). -/
theorem State.checked_of {P : State → Prop} (herr : P (s.finishErr .operandLength))
    (hok : s.lengthsOk p = true → P t) : P (s.checked p t) := by
  rcases State.checked_cases p s t with ⟨hl, he⟩ | ⟨_, he⟩ <;> rw [he]
  · exact hok hl
  · exact herr

theorem inBytes_length_le (h : s.lengthsOk p = true) : s.inBytes.length + 255 ≤ p.outMax := by
  obtain ⟨_, _, hin⟩ := (State.lengthsOk_iff p s).mp h
  rw [length_inBytes]
  exact Nat.add_le_add_right hin 255

/-- What a run step can do: the operation ends, or it asks for random bytes with every earlier check passed. -/
inductive RunStep (p : Config.Params) (s : State) : State → Prop where
  | ends {t : State} (h : Completion p s t) : RunStep p s t
  | asks (n : Byte) (h : WaitOk p (s.need n)) : RunStep p s (s.need n)

theorem RunStep.inv (hp : p.Valid) (h : Inv p s) (hb : s.engine = .busy) (hs : RunStep p s t) : Inv p t := by
  cases hs with
  | ends hc => exact hc.inv hp (h.result (by simp [hb])).1
  | asks n hw => exact h.need hb n hw

/-- An operation that draws nothing: the check of the lengths, then one of the two completions. -/
theorem RunStep.ofFinish (r : Except EngineError Bytes)
    (hlen : ∀ out, r = .ok out → out.length ≤ s.inBytes.length + 255) : RunStep p s (s.checked p (s.finish r)) :=
  State.checked_of (.ends (.failed _)) fun hl =>
    .ends (.finish p s r fun out ho => (hlen out ho).trans (inBytes_length_le hl))

/-- The request of the instruction in `CMD`, once its checks have passed (R136, R303). -/
theorem waitOk_need (i : Instr) (n : Byte) (hd : decode s.cmd = .ok i) (hn : drawLength i = some n)
    (hl : s.lengthsOk p = true) (hr : ReadyToDraw p i s) : WaitOk p (s.need n) where
  draws := ⟨i, hd, hn⟩
  lengths := hl
  gcm_key := fun hg => hr.gcm_key (Except.ok.inj (hd.symm.trans hg))
  hash := fun sel hc => hr.hash sel (Except.ok.inj (hd.symm.trans hc))

/-- The run step of each command. -/
theorem execAt_runStep (p : Config.Params) (s t : State) (i : Instr) (hd : decode s.cmd = .ok i)
    (hrun : s.phase = .run) (h : execAt p i s = .next t) : RunStep p s t := by
  cases i with
  | clear =>
    cases h
    exact .ends (.cleared (eq_encode_of_decode s.cmd .clear hd))
  | genNonce size =>
    cases h
    simp only [genNonceRun, hrun]
    refine State.checked_of (.ends (.failed _)) fun hl => ?_
    split
    · exact .ends (.done [] (Nat.zero_le _))
    · rename_i hsize
      exact .asks size (waitOk_need _ size hd (if_neg hsize) hl ⟨by simp, by simp⟩)
  | pad bs => cases h; exact .ofFinish _ (padResult_length_le bs s.inBytes)
  | unpad =>
    cases h
    exact .ofFinish _ fun out ho => (unpadBytes_length_le _ out ho).trans (Nat.le_add_right _ _)
  | gcmEnc =>
    cases h
    simp only [gcmEncRun, hrun]
    refine State.checked_of (.ends (.failed _)) fun hl => ?_
    split
    · exact .ends (.failed _)
    · rename_i hkey
      exact .asks 12 (waitOk_need _ 12 hd rfl hl ⟨fun _ => Nat.le_of_not_lt hkey, by simp⟩)
  | gcmDec =>
    cases h
    exact .ofFinish _ fun out ho => (gcmDecrypt_length_le _ _ _ out ho).trans (Nat.le_add_right _ _)
  | cbcEnc sel =>
    cases h
    simp only [cbcEncRun, hrun]
    refine State.checked_of (.ends (.failed _)) fun hl => ?_
    split
    · exact .ends (.failed _)
    · rename_i hht
      exact .asks 16 (waitOk_need _ 16 hd rfl hl ⟨by simp, fun _ he => Instr.cbcEnc.inj he ▸ hht⟩)
  | cbcDec sel =>
    cases h
    exact .ofFinish _ fun out ho => (cbcHmacDecrypt_length_le _ _ _ _ _ out ho).trans (Nat.le_add_right _ _)

/-- The answer step of each command that draws: with an answer on the port the operation ends. -/
theorem execAt_completion (hp : p.Valid) (i : Instr) (n : Byte) (a : Config.EntropyAnswer)
    (hn : drawLength i = some n) (hl : s.lengthsOk p = true) (hwait : s.phase = .wait) (ha : s.answer = some a)
    (h : execAt p i s = .next t) : Completion p s t := by
  have hin := inBytes_length_le hl
  cases i with
  | genNonce size =>
    cases h
    simp only [genNonceRun, hwait, State.resume_some s _ a ha]
    refine .finish p s _ fun out ho => ?_
    have := generateNonce_length _ a out ho
    have := size.isLt
    omega
  | gcmEnc =>
    cases h
    simp only [gcmEncRun, hwait, State.resume_some s _ a ha]
    refine .finish p s _ fun out ho => ?_
    have := gcmEncrypt_length _ _ _ a out ho
    omega
  | cbcEnc sel =>
    cases h
    simp only [cbcEncRun, hwait, State.resume_some s _ a ha]
    refine .finish p s _ fun out ho => ?_
    have := cbcHmacEncrypt_length_le p hp _ _ _ sel a out ho
    omega
  | clear | pad _ | unpad | gcmDec | cbcDec _ => cases hn

/-! ### Every step keeps the invariant -/

theorem Inv.engineStep (hp : p.Valid) (h : Inv p s) (ht : engineStep p s = .next t) : Inv p t := by
  by_cases hrun : s.engine = .busy ∧ s.phase = .run
  · obtain ⟨hb, hph⟩ := hrun
    rw [engineStep_of_run p s hb hph] at ht
    cases hd : decode s.cmd with
    | error e =>
      rw [runCommand_of_illegal p s e hd] at ht
      cases ht
      exact RunStep.inv hp h hb (.ends (.failed _))
    | ok i =>
      rw [runCommand_of_decode p s i hd] at ht
      exact (execAt_runStep p s t i hd hph ht).inv hp h hb
  · rw [engineStep_of_not_run p s hrun] at ht
    cases ht
    exact h

theorem Inv.entropyStep (hp : p.Valid) (h : Inv p s) (era : Nat) (a : Config.EntropyAnswer)
    (ht : entropyStep p era a s = .next t) : Inv p t := by
  unfold Machine.entropyStep at ht
  split at ht
  · rename_i hen
    obtain ⟨hb, hph, _⟩ := hen
    have hw := h.waiting hb hph
    obtain ⟨i, hd, hn⟩ := hw.draws
    rw [runCommand_of_decode p { s with answer := some a } i hd] at ht
    have hends := execAt_completion (s := { s with answer := some a }) hp i s.rngN a hn hw.lengths hph rfl ht
    exact hends.inv hp (h.result (by simp [hb])).1
  · cases ht
    exact h

theorem Inv.applyInput (hp : p.Valid) (h : Inv p s) (e : Input) (ht : applyInput p e s = .next t) : Inv p t := by
  cases e with
  | readReg n => cases ht; exact h.withReadData _
  | writeReg n v => cases ht; exact h.hostWriteReg n v
  | readBuf id i => cases ht; exact h.withReadData _
  | writeBuf id i v => cases ht; exact h.hostWriteBuf id i v
  | engineTurn => exact h.engineStep hp ht
  | entropy era a => exact h.entropyStep hp era a ht
  | reset => cases ht; exact inv_doReset p s

theorem Inv.freeStep (hp : p.Valid) (h : Inv p s) (ht : freeStep p s = .next t) : Inv p t := by
  have htick : Inv p { s with ticks := s.ticks + 1 } :=
    h.withOutside s.inputs s.readData s.ie (s.ticks + 1) s.haz fun hi => (h.idle hi).2
  unfold Machine.freeStep at ht
  split at ht
  · split at ht
    · cases ht; exact htick
    · exact htick.entropyStep hp _ _ ht
  · exact h.engineStep hp ht

/-- Every step of an engine with valid parameters keeps the invariant, whichever agent makes it. -/
theorem Inv.advance (hp : p.Valid) (h : Inv p s) (ht : advance p s = .next t) : Inv p t := by
  cases hin : s.inputs with
  | nil =>
    rw [advance_nil p s hin] at ht
    exact h.freeStep hp ht
  | cons e es =>
    rw [advance_cons p s e es hin] at ht
    exact (h.withInputs es).applyInput hp e ht

end Machine
end Sys2Proof
end

section
open Sys2Proof Sys2Proof.Machine

/-- Settles O13: the capacities are numbers, AES undoes itself, and both hashes have their lengths. -/
theorem defaultParametersAreValid : Obligations.DefaultParametersAreValid where
  keyMax_ge := by decide
  keyMax_lt := by decide
  akeyMax_ge := by decide
  akeyMax_lt := by decide
  inMax_ge := by decide
  inMax_le := by decide
  bc_valid := aes_valid
  ht_valid := defaultHashes_valid

/-- Settles O47, by the step of each agent: a run step ends the operation or asks for the bytes the operation draws with
its earlier checks passed, an answer ends it, and the host's accesses touch nothing the invariant ties to a running
operation. -/
theorem stepKeepsInvariant : Obligations.StepKeepsInvariant :=
  fun _ _ h ht => h.advance defaultParametersAreValid ht

end

section
/-! The machine as a whole (spec 10_state.md): every event of every agent has a next state, the words of the composed
registers as numbers, and the state after reset. -/

namespace Sys2Proof
namespace Machine

/-! ### Every step has a next state (R20) -/

section
variable (p : Config.Params) (s : State)

theorem engineStep_answers : ∃ t, engineStep p s = .next t := by
  obtain ⟨t, ht, _⟩ := engineStep_cases p s
  exact ⟨t, ht⟩

theorem entropyStep_answers (era : Nat) (a : Config.EntropyAnswer) : ∃ t, entropyStep p era a s = .next t := by
  obtain ⟨t, ht, _⟩ := entropyStep_cases p era a s
  exact ⟨t, ht⟩

/-- The host's accesses and reset have their next state written out; the two engine-side steps have one of `OpStep`. -/
theorem applyInput_answers (e : Input) : ∃ t, applyInput p e s = .next t := by
  cases e with
  | readReg _ | writeReg _ _ | readBuf _ _ | writeBuf _ _ _ | reset => exact ⟨_, rfl⟩
  | engineTurn => exact engineStep_answers p s
  | entropy era a => exact entropyStep_answers p s era a

theorem freeStep_answers : ∃ t, freeStep p s = .next t := by
  unfold freeStep
  split
  · split
    · exact ⟨_, rfl⟩
    · exact entropyStep_answers p _ s.resets _
  · exact engineStep_answers p s

/-- An engine with any parameters takes every step. -/
theorem advance_answers : ∃ t, advance p s = .next t := by
  cases hin : s.inputs with
  | nil => exact advance_nil p s hin ▸ freeStep_answers p s
  | cons e es => exact advance_cons p s e es hin ▸ applyInput_answers p _ e

end

/-! ### The composed registers as numbers (R23 to R25, R320) -/

section
variable (s : State)

theorem State.toNat_statusWord : s.statusWord.toNat = s.engine.bits.toNat + if s.haz then 4 else 0 := by
  unfold State.statusWord
  cases s.engine <;> cases s.haz <;> rfl

theorem State.toNat_errWord : s.errWord.toNat = (errCode s.err).toNat :=
  (BitVec.toNat_append (0 : BitVec 24) (errCode s.err)).trans (by simp)

theorem State.toNat_ctrlWord : s.ctrlWord.toNat = if s.ie then 1 else 0 := by
  unfold State.ctrlWord
  cases s.ie <;> rfl

/-- There is no register from number 8 on (R21, R62). -/
theorem hostReadReg_of_le (n : Nat) (h : 8 ≤ n) : hostReadReg s n = 0 := by
  obtain ⟨k, rfl⟩ := Nat.exists_eq_add_of_le' h
  rfl

end

/-! ### The state after reset (R36) -/

theorem hostReadReg_reset (n : Nat) : hostReadReg State.reset n = 0 := by
  rcases Nat.lt_or_ge n 8 with h | h
  · revert n; decide
  · exact hostReadReg_of_le _ n h

/-- The number of resets is not the engine's (log entry 16): the invariant does not speak of it. -/
theorem Inv.withResets {p : Config.Params} {s : State} (h : Inv p s) (n : Nat) : Inv p { s with resets := n } :=
  { h with
    buffers := { h.buffers with }
    waiting := fun hb hw => { h.waiting hb hw with } }

theorem inv_reset (p : Config.Params) : Inv p State.reset := (inv_doReset p State.reset).withResets 0

end Machine
end Sys2Proof
end

section
open Sys2Proof Sys2Proof.Machine

/-- Settles O48: the case of each event, and of no event; an operation's own step has one of the shapes of `OpStep`. -/
theorem stepAlwaysAnswers : Obligations.StepAlwaysAnswers := advance_answers params

/-- Settles O45: each field is read off the state after reset; the composed registers read 0, and so does every number
that has no register. -/
theorem resetValues : Obligations.ResetValues := by
  refine ⟨rfl, rfl, rfl, rfl, rfl, rfl, rfl, rfl, rfl, ?key, ?akey, ?inp, ?out, rfl, rfl, rfl, rfl, rfl, ?registers⟩
  case key | akey | inp | out => exact Memory.read_nil
  case registers => exact hostReadReg_reset

/-- Settles O46: it is the state any reset leaves, but for the count of resets. -/
theorem resetMeetsInvariant : Obligations.ResetMeetsInvariant := inv_reset params

/-- Settles O57: the stored registers are read as they are, the composed ones by their words as numbers. -/
theorem registerFields : Obligations.RegisterFields := by
  intro s
  refine ⟨rfl, ?status, ?err, ?ctrl, rfl, rfl, rfl, rfl, hostReadReg_of_le s⟩
  case status =>
    refine s.toNat_statusWord.trans ?_
    cases s.engine <;> rfl
  case err =>
    refine s.toNat_errWord.trans ?_
    cases s.err with
    | none => rfl
    | some e => cases e <;> rfl
  case ctrl => exact s.toNat_ctrlWord

end

section
/-! The host's accesses (spec 20_memory.md R60 to R66): what each write does to a busy engine and to one that is not,
what a buffer read returns, and what is left of a busy engine after any of the four. -/

namespace Sys2Proof
namespace Machine

/-! ### A busy engine (R65) -/

section
variable (p : Config.Params) (s : State)

/-- A busy engine drops the writes to `CMD` and the operand lengths, takes the one to `CTRL`, and ignores the rest. -/
theorem hostWriteReg_of_busy (h : s.engine = .busy) (n : Nat) (v : Word) : hostWriteReg s n v =
    if n = 0 ∨ n = 4 ∨ n = 5 ∨ n = 6 then s.dropped else if n = 3 then { s with ie := v.getLsbD 0 } else s := by
  match n with
  | 0 | 4 | 5 | 6 => exact s.unlessBusy_of_busy _ h
  | 1 | 2 | 3 | 7 | _ + 8 => rfl

/-- A busy engine drops the writes to the operand buffers, at any index, and ignores the rest. -/
theorem hostWriteBuf_of_busy (h : s.engine = .busy) (id i : Nat) (v : Byte) :
    hostWriteBuf p s id i v = if id < 3 then s.dropped else s := by
  match id with
  | 0 | 1 | 2 => exact s.unlessBusy_of_busy _ h
  | _ + 3 => exact (if_neg (by omega)).symm

theorem hostReadBuf_of_busy (h : s.engine = .busy) (id i : Nat) : hostReadBuf p s id i = 0 := if_pos h

/-- `t` is `s` but for what the host can reach while an operation runs: `HAZ`, `CTRL.IE` and the value it read. -/
def SameOperation (s t : State) : Prop := t = { s with haz := t.haz, ie := t.ie, readData := t.readData }

theorem SameOperation.hostWriteReg (h : s.engine = .busy) (n : Nat) (v : Word) :
    SameOperation s (hostWriteReg s n v) := by
  rw [hostWriteReg_of_busy s h]
  split_ifs <;> rfl

theorem SameOperation.hostWriteBuf (h : s.engine = .busy) (id i : Nat) (v : Byte) :
    SameOperation s (hostWriteBuf p s id i v) := by
  rw [hostWriteBuf_of_busy p s h]
  split_ifs <;> rfl

/-- None of the host's four accesses changes the operation of a busy engine (R65, R76, R135). -/
theorem applyInput_sameOperation (h : s.engine = .busy) (e : Input) (he : e.isHostAccess = true) :
    ∃ t, applyInput p e s = .next t ∧ SameOperation s t := by
  cases e with
  | readReg _ | readBuf _ _ => exact ⟨_, rfl, rfl⟩
  | writeReg n v => exact ⟨_, rfl, .hostWriteReg s h n v⟩
  | writeBuf id i v => exact ⟨_, rfl, .hostWriteBuf p s h id i v⟩
  | engineTurn | entropy _ _ | reset => cases he

/-! ### An engine that is not busy (R63, R64) -/

/-- Register 3 holds one bit, 4 to 6 hold the operand lengths, and no other number but 0 can be written. -/
theorem hostWriteReg_of_not_busy (h : s.engine ≠ .busy) (n : Nat) (v : Word) (hn : n ≠ 0) : hostWriteReg s n v =
    { s with ie := if n = 3 then v.getLsbD 0 else s.ie
             keyLen := if n = 4 then v else s.keyLen
             akeyLen := if n = 5 then v else s.akeyLen
             inLen := if n = 6 then v else s.inLen } := by
  match n with
  | 0 => exact absurd rfl hn
  | 4 | 5 | 6 => exact s.unlessBusy_of_not_busy _ h
  | 1 | 2 | 3 | 7 | _ + 8 => rfl

/-- The buffer named is stored to, below its capacity. -/
theorem hostWriteBuf_of_not_busy (h : s.engine ≠ .busy) (id i : Nat) (v : Byte) : hostWriteBuf p s id i v =
    { s with key := if id = 0 then storeBelow p.keyMax s.key i v else s.key
             akey := if id = 1 then storeBelow p.akeyMax s.akey i v else s.akey
             inp := if id = 2 then storeBelow p.inMax s.inp i v else s.inp } := by
  match id with
  | 0 | 1 | 2 => exact s.unlessBusy_of_not_busy _ h
  | _ + 3 => rfl

/-- `IN` and `OUT` read back below their capacities; the keys do not. -/
theorem hostReadBuf_of_not_busy (h : s.engine ≠ .busy) (id i : Nat) : hostReadBuf p s id i =
    if id = 2 ∧ i < p.inMax then Memory.read s.inp i
    else if id = 3 ∧ i < p.outMax then Memory.read s.out i else 0 := by
  refine (if_neg h).trans ?_
  match id with
  | 0 | 1 | 2 | 3 | _ + 4 => simp

end

/-- A store made only on a condition: the byte is read back when it holds and the index is below the capacity. -/
theorem Memory.read_ite_storeBelow (c : Prop) [Decidable c] (cap : Nat) (m : Memory) (i : Nat) (v : Byte) (j : Nat) :
    Memory.read (if c then storeBelow cap m i v else m) j = if c ∧ j = i ∧ i < cap then v else Memory.read m j := by
  by_cases hc : c
  · simp [hc, Memory.read_storeBelow]
  · simp [hc]

/-- A buffer with every listed index below a bound reads 0x00 from the bound on. -/
theorem Memory.read_of_below (m : Memory) (cap i : Nat) (h : Memory.below m cap = true) (hi : cap ≤ i) :
    Memory.read m i = 0 := by
  refine Memory.read_of_not_mem m i fun hm => ?_
  obtain ⟨c, hc, rfl⟩ := List.mem_map.mp hm
  exact absurd ((Memory.below_iff m cap).mp h c hc) (Nat.not_lt.mpr hi)

/-- There is nothing to read in `OUT` past the result (R64). -/
theorem Inv.hostReadBuf_out_of_le {p : Config.Params} {s : State} (h : Inv p s) (i : Nat) (hi : s.outLen.toNat ≤ i) :
    hostReadBuf p s 3 i = 0 := by
  by_cases hb : s.engine = .busy
  · exact hostReadBuf_of_busy p s hb 3 i
  · rw [hostReadBuf_of_not_busy p s hb, Memory.read_of_below s.out _ i h.buffers.out_len hi]
    simp

end Machine
end Sys2Proof
end

section
open Sys2Proof Sys2Proof.Machine

/-- Settles O54: a write stores to the one buffer it names, and in a state that meets the invariant `OUT` lists nothing
from `OUT_LEN` on. -/
theorem bufferAccesses : Obligations.BufferAccesses := by
  intro s id i hb
  refine ⟨?write, hostReadBuf_of_not_busy params s hb id i, fun h hi => h.hostReadBuf_out_of_le i hi⟩
  case write =>
    rintro v t rfl
    rw [hostWriteBuf_of_not_busy params s hb]
    exact ⟨rfl, Memory.read_ite_storeBelow _ _ s.key i v, Memory.read_ite_storeBelow _ _ s.akey i v,
      Memory.read_ite_storeBelow _ _ s.inp i v⟩

/-- Settles O60: the event leaves the script, and none of the four accesses reaches the operation. -/
theorem hostCannotDisturbOperation : Obligations.HostCannotDisturbOperation := by
  intro s e es hb hin he
  rw [step_cons s e es hin]
  exact applyInput_sameOperation params { s with inputs := es } hb e he

/-- Settles O53: register 0 starts the operation, and the other numbers are those of `hostWriteReg_of_not_busy`. -/
theorem registerWrites : Obligations.RegisterWrites := by
  refine fun s n v hb => ⟨?_, hostWriteReg_of_not_busy s hb n v⟩
  rintro rfl
  exact s.unlessBusy_of_not_busy _ hb

/-- Settles O55: one law for each access, a dropped write being one that only sets `HAZ`. -/
theorem busyAccesses : Obligations.BusyAccesses := fun s hb =>
  ⟨hostWriteReg_of_busy s hb, hostWriteBuf_of_busy params s hb, hostReadBuf_of_busy params s hb⟩

/-- Settles O56: a read does not depend on the script it leaves. -/
theorem readsChangeNothing : Obligations.ReadsChangeNothing := fun s n id i es =>
  ⟨step_cons s (.readReg n) es, step_cons s (.readBuf id i) es⟩

end

section
/-! Command words (spec 30_encoding.md R90 to R97): a word and its three fields determine each other, the decoder is the
inverse of the encoder, a row of the command map selects the encodings of its instruction, and what an engine does with
a word that is no encoding. -/

namespace Sys2Proof
namespace Machine

/-! ### Words and fields (R90) -/

/-- The three fields are read back from the word they make. -/
@[simp] theorem fieldsOf_wordOf (f : CommandFields) : fieldsOf (wordOf f) = f := by
  have harg : (f.rsv ++ f.arg ++ f.op).extractLsb' 8 8 = f.arg := by
    rw [BitVec.extractLsb'_append_eq_of_le (Nat.le_refl 8)]
    exact BitVec.extractLsb'_append_eq_right
  have hrsv : (f.rsv ++ f.arg ++ f.op).extractLsb' 16 16 = f.rsv := by
    rw [BitVec.extractLsb'_append_eq_of_le (by decide : 8 ≤ 16)]
    exact BitVec.extractLsb'_append_eq_left
  simp only [fieldsOf, wordOf, harg, hrsv, BitVec.extractLsb'_append_eq_right]

theorem wordOf_and (f g : CommandFields) :
    wordOf f &&& wordOf g = wordOf { op := f.op &&& g.op, arg := f.arg &&& g.arg, rsv := f.rsv &&& g.rsv } := by
  exact BitVec.and_append.trans (congrArg (· ++ (f.op &&& g.op)) BitVec.and_append)

/-- The mask of the rows with an argument clears the argument and keeps the other two fields. -/
theorem wordOf_and_argMask (f : CommandFields) : wordOf f &&& 0xFFFF00FF = wordOf { f with arg := 0 } := by
  have hmask : (0xFFFF00FF : Word) = wordOf { op := BitVec.allOnes 8, arg := 0, rsv := BitVec.allOnes 16 } := by decide
  simp only [hmask, wordOf_and, BitVec.and_allOnes, BitVec.ofNat_eq_ofNat, BitVec.and_zero]

/-! ### The decoder is the inverse of the encoder (R91, R93, R97) -/

/-- The decoder's operation codes are the ones the instructions are written with. -/
theorem decodeOp_fields (i : Instr) : decodeOp i.fields.op i.fields.arg = .ok i := by cases i <;> rfl

@[simp] theorem decode_encode (i : Instr) : decode (encode i) = .ok i := by
  have hrsv : i.fields.rsv = 0 := by cases i <;> rfl
  simp only [decode, encode, fieldsOf_wordOf, hrsv, if_true, decodeOp_fields]

/-- The legal words are the encodings. -/
theorem decode_eq_ok_iff (w : Word) (i : Instr) : decode w = .ok i ↔ w = encode i :=
  ⟨eq_encode_of_decode w i, fun h => h ▸ decode_encode i⟩

theorem decodeTableWord_encode (i : Instr) : decodeTableWord 32 (encode i).toNat = some i := by
  simp [decodeTableWord]

/-! ### The command map (R91) -/

/-- What is stated of each constructor holds of every instruction. -/
theorem encodeDecode_statement (i : Instr) : Laws.EncodeDecode.Statement i := by
  cases i with
  | clear => exact Laws.EncodeDecode.clear
  | genNonce size => exact Laws.EncodeDecode.genNonce size
  | pad blockSize => exact Laws.EncodeDecode.pad blockSize
  | unpad => exact Laws.EncodeDecode.unpad
  | gcmEnc => exact Laws.EncodeDecode.gcmEnc
  | gcmDec => exact Laws.EncodeDecode.gcmDec
  | cbcEnc sel => exact Laws.EncodeDecode.cbcEnc sel
  | cbcDec sel => exact Laws.EncodeDecode.cbcDec sel

theorem selects_encode_iff (r : CommandRow) (hr : r ∈ commandRows) (i : Instr) :
    r.selects (encode i) = true ↔ r.mnemonic = i.mnemonic := by
  obtain ⟨_, _, hrows⟩ := encodeDecode_statement i
  exact hrows r hr

/-- A row that masks nothing selects its pattern alone. -/
theorem eq_of_and_fullMask (w v : Word) (h : w &&& 0xFFFFFFFF = v) : w = v :=
  BitVec.and_allOnes.symm.trans h

/-- A row that masks the argument selects the words with its operation code and any argument. -/
theorem eq_wordOf_of_and_argMask (w : Word) (op : Byte) (h : w &&& 0xFFFF00FF = wordOf { op, arg := 0, rsv := 0 }) :
    w = wordOf { op, arg := (fieldsOf w).arg, rsv := 0 } := by
  rw [← wordOf_fieldsOf w, wordOf_and_argMask] at h
  have hf := congrArg fieldsOf h
  simp only [fieldsOf_wordOf, CommandFields.mk.injEq] at hf
  obtain ⟨hop, -, hrsv⟩ := hf
  rw [← hop, ← hrsv, wordOf_fieldsOf]

/-- The word of a row of the command map is an encoding. -/
theorem exists_encode_of_selects (r : CommandRow) (hr : r ∈ commandRows) (w : Word) (h : r.selects w = true) :
    ∃ i, w = encode i := by
  have hw : w &&& r.mask = r.pattern := beq_iff_eq.mp h
  have harg := eq_wordOf_of_and_argMask w
  simp only [commandRows, List.mem_cons, List.not_mem_nil, or_false] at hr
  obtain rfl | rfl | rfl | rfl | rfl | rfl | rfl | rfl := hr
  · exact ⟨.clear, eq_of_and_fullMask w _ hw⟩
  · exact ⟨.genNonce (fieldsOf w).arg, harg 0x01 hw⟩
  · exact ⟨.pad (fieldsOf w).arg, harg 0x02 hw⟩
  · exact ⟨.unpad, eq_of_and_fullMask w _ hw⟩
  · exact ⟨.gcmEnc, eq_of_and_fullMask w _ hw⟩
  · exact ⟨.gcmDec, eq_of_and_fullMask w _ hw⟩
  · exact ⟨.cbcEnc (fieldsOf w).arg, harg 0x20 hw⟩
  · exact ⟨.cbcDec (fieldsOf w).arg, harg 0x21 hw⟩

theorem selects_iff_decode (r : CommandRow) (hr : r ∈ commandRows) (w : Word) :
    r.selects w = true ↔ ∃ i, decode w = .ok i ∧ i.mnemonic = r.mnemonic := by
  constructor
  · intro h
    obtain ⟨i, rfl⟩ := exists_encode_of_selects r hr w h
    exact ⟨i, decode_encode i, ((selects_encode_iff r hr i).mp h).symm⟩
  · rintro ⟨i, hd, hm⟩
    rw [eq_encode_of_decode w i hd]
    exact (selects_encode_iff r hr i).mpr hm.symm

theorem eq_of_mnemonic_eq : ∀ r ∈ commandRows, ∀ q ∈ commandRows, r.mnemonic = q.mnemonic → r = q := by decide

/-! ### Illegal words (R95, R303) -/

/-- A word that decodes passes the three checks of R95. -/
theorem wellFormed_of_decode (f : CommandFields) (i : Instr) (h : decode (wordOf f) = .ok i) : f.wellFormed = true := by
  have hf : f = i.fields := by
    simpa only [encode, fieldsOf_wordOf] using congrArg fieldsOf (eq_encode_of_decode _ i h)
  obtain ⟨hwf, _⟩ := encodeDecode_statement i
  exact hf ▸ hwf

/-- The three checks of R95 as propositions. -/
theorem CommandFields.wellFormed_iff (f : CommandFields) :
    f.wellFormed = true ↔ f.rsv = 0 ∧ f.op ∈ knownOps ∧ (f.op ∈ opsWithoutArg → f.arg = 0) := by
  simp [CommandFields.wellFormed, CommandFields.reservedOk, CommandFields.opOk, CommandFields.argOk, and_assoc,
    imp_iff_not_or]

/-- A word that fails one of the checks of R95 does not decode. -/
theorem exists_decode_eq_error (f : CommandFields)
    (h : f.rsv ≠ 0 ∨ f.op ∉ knownOps ∨ (f.op ∈ opsWithoutArg ∧ f.arg ≠ 0)) :
    ∃ e, decode (wordOf f) = .error e := by
  cases hd : decode (wordOf f) with
  | error e => exact ⟨e, rfl⟩
  | ok i =>
    obtain ⟨hrsv, hop, harg⟩ := (CommandFields.wellFormed_iff f).mp (wellFormed_of_decode f i hd)
    obtain h | h | ⟨hno, h⟩ := h
    · exact absurd hrsv h
    · exact absurd hop h
    · exact absurd (harg hno) h

/-- The run step of a busy engine, on its turn or with an empty script (log entry 2). -/
theorem step_run (s : State) (es : List Input) (hb : s.engine = .busy) (hp : s.phase = .run)
    (hin : (s.inputs = [] ∧ es = []) ∨ s.inputs = .engineTurn :: es) :
    step s = runCommand params { s with inputs := es } := by
  obtain ⟨hnil, rfl⟩ | hturn := hin
  · have hs : { s with inputs := [] } = s := by rw [← hnil]
    rw [step_nil s hnil, freeStep_of_run params s hp, engineStep_of_run params s hb hp, hs]
  · rw [step_cons s .engineTurn es hturn]
    exact engineStep_of_run params { s with inputs := es } hb hp

/-- The run step of an illegal word. -/
theorem step_failedWith_of_illegal (s : State) (w : Word) (es : List Input) (e : IllegalWord)
    (hd : decode w = .error e) (hcmd : s.cmd = w) (hb : s.engine = .busy) (hp : s.phase = .run)
    (hin : (s.inputs = [] ∧ es = []) ∨ s.inputs = .engineTurn :: es) :
    ∃ t, step s = .next t ∧ FailedWith { s with inputs := es } t .illegalCommand := by
  subst hcmd
  rw [step_run s es hb hp hin]
  exact ⟨_, runCommand_of_illegal params { s with inputs := es } e hd, State.finishErr_failedWith _ _⟩

/-- A word written to `CMD` of an engine that is not busy starts its operation (R302). -/
theorem step_writeCmd (s : State) (w : Word) (es : List Input) (hb : s.engine ≠ .busy)
    (hin : s.inputs = .writeReg 0 w :: es) : step s = .next ({ s with inputs := es }.startCommand w) :=
  (step_cons s _ es hin).trans (congrArg Host.Outcome.next (State.unlessBusy_of_not_busy { s with inputs := es } _ hb))

/-- An illegal word written to `CMD` is held by a busy engine in `P_RUN`, whose run step fails. -/
theorem steps_failedWith_of_illegal_write (s : State) (w : Word) (es : List Input) (e : IllegalWord)
    (hd : decode w = .error e) (hb : s.engine ≠ .busy)
    (hin : (s.inputs = [.writeReg 0 w] ∧ es = []) ∨ s.inputs = .writeReg 0 w :: .engineTurn :: es) :
    ∃ t u, step s = .next t ∧ t.cmd = w ∧ t.engine = .busy ∧ step t = .next u ∧
      FailedWith { t with inputs := es } u .illegalCommand := by
  obtain ⟨rest, hin, hrest⟩ : ∃ rest, s.inputs = .writeReg 0 w :: rest ∧
      ((rest = [] ∧ es = []) ∨ rest = .engineTurn :: es) := by
    obtain ⟨hin, hes⟩ | hin := hin
    · exact ⟨[], hin, .inl ⟨rfl, hes⟩⟩
    · exact ⟨.engineTurn :: es, hin, .inr rfl⟩
  obtain ⟨u, hu, hfail⟩ := step_failedWith_of_illegal ({ s with inputs := rest }.startCommand w) w es e hd
    rfl rfl rfl hrest
  exact ⟨_, u, step_writeCmd s w rest hb hin, rfl, rfl, hu, hfail⟩

end Machine
end Sys2Proof
end

section
open Sys2Proof Sys2Proof.Machine

/-- Settles O1: a word that decodes has the fields of its instruction, and a word gives its fields back. -/
theorem decodeInvertsEncode : Obligations.DecodeInvertsEncode :=
  ⟨decode_eq_ok_iff, decodeTableWord_encode⟩

/-- Settles O2: the words of a row are encodings, an encoding selects the row of its mnemonic alone, and no two rows
share a mnemonic. -/
theorem rowsSelectTheirInstructions : Obligations.RowsSelectTheirInstructions := by
  intro w
  refine ⟨fun r hr => selects_iff_decode r hr w, fun r hr q hq hrw hqw => eq_of_mnemonic_eq r hr q hq ?_⟩
  obtain ⟨i, rfl⟩ := exists_encode_of_selects r hr w hrw
  exact ((selects_encode_iff r hr i).mp hrw).trans ((selects_encode_iff q hq i).mp hqw).symm

/-- Settles O3: such a word does not decode, so its run step is the error completion; written to `CMD` it starts like
any other word and is then the held word of the run step. -/
theorem illegalWordFails : Obligations.IllegalWordFails := by
  intro s arg op rsv es hbad
  obtain ⟨e, hd⟩ := exists_decode_eq_error { op, arg, rsv } hbad
  exact ⟨step_failedWith_of_illegal s _ es e hd, steps_failedWith_of_illegal_write s _ es e hd⟩

/-- Settles O4: each word is decoded; none of the three illegal words passes its check. -/
theorem sampleWordsDecode : Obligations.SampleWordsDecode := by
  unfold Obligations.SampleWordsDecode
  decide

end

section
/-! The two frame formats (spec 30_encoding.md R100 to R106): what parses is the frame of its fields, and only that. -/

namespace Sys2Proof
namespace Machine

/-- The byte that holds a length is that length when it fits (R12). -/
theorem toNat_lengthByte (s : Bytes) (h : s.length ≤ 255) : (lengthByte s).toNat = s.length :=
  (BitVec.toNat_ofNat ..).trans (Nat.mod_eq_of_lt (Nat.lt_succ_of_le h))

theorem lengthByte_eq (s : Bytes) (b : Byte) (h : s.length = b.toNat) : lengthByte s = b := by
  simp [lengthByte, h]

/-! ### GCM frames (R100 to R102) -/

/-- A string that parses starts with the byte 12 and goes on for at least the twelve bytes of the nonce. -/
theorem eq_cons_of_parseGcmFrame (f : Bytes) (g : GcmFrame) (h : parseGcmFrame f = .ok g) :
    ∃ r, f = 12 :: r ∧ 12 ≤ r.length ∧ g = { nonce := r.take 12, ct := r.drop 12 } := by
  unfold parseGcmFrame at h
  split at h
  · cases h
  · rename_i nl r
    split_ifs at h with hnl hlen
    cases h
    rw [List.length_cons] at hlen
    exact ⟨r, by rw [not_not.mp hnl], by omega, rfl⟩

/-- `ParseGcmFrame` answers exactly the fields of a frame. -/
theorem parseGcmFrame_eq_ok_iff (f : Bytes) (g : GcmFrame) :
    parseGcmFrame f = .ok g ↔ g.nonce.length = 12 ∧ serializeGcmFrame g.nonce g.ct = f := by
  constructor
  · intro h
    obtain ⟨r, rfl, hlen, rfl⟩ := eq_cons_of_parseGcmFrame f g h
    have hn : (r.take 12).length = 12 := List.length_take_of_le hlen
    exact ⟨hn, by rw [serializeGcmFrame, lengthByte_eq _ 12 hn, List.take_append_drop]⟩
  · rintro ⟨hn, rfl⟩
    simp [parseGcmFrame, serializeGcmFrame, lengthByte_eq _ 12 hn, hn]

/-! ### CBC-HMAC frames (R104 to R106) -/

/-- A string that parses starts with the byte 16, sixteen bytes of IV, and a byte for the length of the MAC. -/
theorem eq_append_of_parseCbcFrame (f : Bytes) (g : CbcFrame) (h : parseCbcFrame f = .ok g) :
    ∃ iv ml r, iv.length = 16 ∧ f = 16 :: (iv ++ ml :: r) := by
  unfold parseCbcFrame at h
  split at h
  · cases h
  · rename_i il r
    split_ifs at h with hil h17 h18
    rw [List.length_cons] at h18
    have hlen : 16 < r.length := by omega
    refine ⟨r.take 16, r[16], r.drop 17, List.length_take_of_le hlen.le, ?_⟩
    rw [← List.drop_eq_getElem_cons hlen, List.take_append_drop, not_not.mp hil]

/-- What follows the byte for the length of the MAC is the MAC and the ciphertext, when it is long enough. -/
theorem parseCbcFrame_append (iv r : Bytes) (ml : Byte) (hiv : iv.length = 16) :
    parseCbcFrame (16 :: (iv ++ ml :: r)) =
      if r.length < ml.toNat then .error .invalidMacLength
      else .ok { iv := iv, mac := r.take ml.toNat, ct := r.drop ml.toNat } := by
  have hlen : (16 :: (iv ++ ml :: r)).length = 18 + r.length := by simp [hiv]; omega
  have hml : (16 :: (iv ++ ml :: r)).getD 17 0 = ml := by simp [hiv]
  have htake : ((16 :: (iv ++ ml :: r)).take 17).drop 1 = iv := by simp [hiv]
  have hdrop : (16 :: (iv ++ ml :: r)).drop 18 = r := by simp [hiv, List.drop_append]
  have hct : (16 :: (iv ++ ml :: r)).drop (18 + ml.toNat) = r.drop ml.toNat := by rw [← List.drop_drop, hdrop]
  simp only [parseCbcFrame, hlen, hml, htake, hdrop, hct, ne_eq, not_true_eq_false, if_false, Nat.add_sub_cancel_left]
  rw [if_neg (by omega), if_neg (by omega)]

/-- `ParseCbcFrame` answers exactly the fields of a frame. -/
theorem parseCbcFrame_eq_ok_iff (f : Bytes) (g : CbcFrame) : parseCbcFrame f = .ok g ↔
    g.iv.length = 16 ∧ g.mac.length ≤ 255 ∧ serializeCbcFrame g.iv g.mac g.ct = f := by
  constructor
  · intro h
    obtain ⟨iv, ml, r, hiv, rfl⟩ := eq_append_of_parseCbcFrame f g h
    rw [parseCbcFrame_append iv r ml hiv] at h
    split at h
    · cases h
    · rename_i hr
      cases h
      have hmac : (r.take ml.toNat).length = ml.toNat := List.length_take_of_le (Nat.not_lt.mp hr)
      refine ⟨hiv, hmac.le.trans (Nat.le_of_lt_succ ml.isLt), ?_⟩
      rw [serializeCbcFrame, lengthByte_eq iv 16 hiv, lengthByte_eq _ ml hmac, List.take_append_drop]
  · rintro ⟨hiv, hmac, rfl⟩
    rw [serializeCbcFrame, lengthByte_eq _ 16 hiv, parseCbcFrame_append _ _ _ hiv, toNat_lengthByte _ hmac]
    simp

end Machine
end Sys2Proof
end

section
open Sys2Proof Sys2Proof.Machine

/-- Settles O5: both clauses are the one law of the parser, that it answers exactly the fields of a frame. -/
theorem gcmFrameRoundTrip : Obligations.GcmFrameRoundTrip := by
  refine ⟨fun nonce ct hn => ⟨(parseGcmFrame_eq_ok_iff _ _).mpr ⟨hn, rfl⟩, ?first, ?length⟩,
    fun f g => (parseGcmFrame_eq_ok_iff f g).mp⟩
  case first => exact congrArg some (lengthByte_eq nonce 12 hn)
  case length => rw [length_serializeGcmFrame, hn]

/-- Settles O6, as O5: a MAC of at most 255 bytes is what its one length byte can hold. -/
theorem cbcFrameRoundTrip : Obligations.CbcFrameRoundTrip := by
  refine ⟨fun iv mac ct hiv hmac => ⟨(parseCbcFrame_eq_ok_iff _ _).mpr ⟨hiv, hmac, rfl⟩, ?length⟩,
    fun f g => (parseCbcFrame_eq_ok_iff f g).mp⟩
  case length => rw [length_serializeCbcFrame, hiv]

end

section
/-! Random bytes (spec 40_nonce_generator.md R130 to R136): what an answer of the entropy source is to a request, where
its bytes stand in a frame, and the two engine-side steps of the three operations that draw. -/

namespace Sys2Proof
namespace Machine

/-! ### What an answer is to a request (R131) -/

theorem generateNonce_of_success (n : Nat) (data : Bytes) (hn : n ≠ 0) (hlen : data.length = n) :
    generateNonce n { ok := true, data := data } = .ok data := by
  rw [generateNonce, if_neg hn, if_pos ⟨rfl, hlen⟩]

theorem generateNonce_of_failure (n : Nat) (a : Config.EntropyAnswer) (hn : n ≠ 0)
    (hfail : a.ok = false ∨ a.data.length ≠ n) : generateNonce n a = .error .randomSource := by
  rcases generateNonce_cases n a hn with ⟨hok, hlen, _⟩ | ⟨_, h⟩
  · rcases hfail with hf | hf
    · exact absurd (hok.symm.trans hf) (by decide)
    · exact absurd hlen hf
  · exact h

theorem eq_data_of_generateNonce (n : Nat) (a : Config.EntropyAnswer) (b : Bytes) (hn : n ≠ 0)
    (h : generateNonce n a = .ok b) : b = a.data ∧ a.data.length = n := by
  rcases generateNonce_cases n a hn with ⟨_, hlen, hg⟩ | ⟨_, hg⟩
  · exact ⟨Except.ok.inj (h.symm.trans hg), hlen⟩
  · cases h.symm.trans hg

theorem gcmKey_of_le (key : Bytes) (h : 16 ≤ key.length) : gcmKey key = .ok (key.take 16) := if_neg (by omega)

theorem gcmEncrypt_of_failure (bc : Config.BlockCipher) (key pt : Bytes) (a : Config.EntropyAnswer)
    (hkey : 16 ≤ key.length) (hfail : a.ok = false ∨ a.data.length ≠ 12) :
    gcmEncrypt bc key pt a = .error .randomSource := by
  simp only [gcmEncrypt, gcmKey_of_le key hkey, generateNonce_of_failure 12 a (by decide) hfail]

theorem cbcHmacEncrypt_of_failure (p : Config.Params) (key akey pt : Bytes) (sel : Byte) (a : Config.EntropyAnswer)
    (hht : p.ht sel ≠ none) (hfail : a.ok = false ∨ a.data.length ≠ 16) :
    cbcHmacEncrypt p key akey pt sel a = .error .randomSource := by
  obtain ⟨alg, halg⟩ := Option.ne_none_iff_exists'.mp hht
  simp only [cbcHmacEncrypt, halg, generateNonce_of_failure 16 a (by decide) hfail]

/-! ### A frame carries the bytes drawn for it (R134, R161, R201) -/

theorem gcmEncrypt_carries_draw (bc : Config.BlockCipher) (key pt f : Bytes) (a : Config.EntropyAnswer)
    (h : gcmEncrypt bc key pt a = .ok f) : (f.drop 1).take 12 = a.data := by
  unfold gcmEncrypt at h
  split at h
  · cases h
  · split at h
    · cases h
    · rename_i nonce hn
      cases h
      obtain ⟨rfl, hlen⟩ := eq_data_of_generateNonce 12 a nonce (by decide) hn
      exact List.take_left' hlen

theorem cbcHmacEncrypt_carries_draw (p : Config.Params) (key akey pt f : Bytes) (sel : Byte) (a : Config.EntropyAnswer)
    (h : cbcHmacEncrypt p key akey pt sel a = .ok f) : (f.drop 1).take 16 = a.data := by
  unfold cbcHmacEncrypt at h
  split at h
  · cases h
  · split at h
    · cases h
    · rename_i iv hiv
      split at h
      · cases h
      · cases h
        obtain ⟨rfl, hlen⟩ := eq_data_of_generateNonce 16 a iv (by decide) hiv
        exact List.take_left' hlen

/-! ### The run step: the request, or none (R136, R303) -/

theorem drawLength_genNonce_eq_some_iff (size n : Byte) :
    drawLength (.genNonce size) = some n ↔ size ≠ 0 ∧ size = n := by simp [drawLength]

theorem drawLength_genNonce_eq_none_iff (size : Byte) : drawLength (.genNonce size) = none ↔ size = 0 := by
  simp [drawLength]

section
variable {s t : State} {i : Instr} {n : Byte}

theorem exec_genNonce_run (size : Byte) (hrun : s.phase = .run) : exec (.genNonce size) s =
    .next (s.checked params (if size = 0 then s.finishOk [] else s.need size)) := by
  simp only [exec, execGenNonce, genNonceRun, hrun]

theorem exec_gcmEnc_run (hrun : s.phase = .run) : exec .gcmEnc s =
    .next (s.checked params (if s.keyLen.toNat < 16 then s.finishErr .keyTooShort else s.need 12)) := by
  simp only [exec, execGcmEnc, gcmEncRun, hrun]

theorem exec_cbcEnc_run (sel : Byte) (hrun : s.phase = .run) : exec (.cbcEnc sel) s =
    .next (s.checked params (if params.ht sel = none then s.finishErr .unsupportedHash else s.need 16)) := by
  simp only [exec, execCbcEnc, cbcEncRun, hrun]

/-- An operation that draws, its earlier checks passed, does `Need(n)`. -/
theorem exec_need (hn : drawLength i = some n) (hrun : s.phase = .run) (hl : s.lengthsOk params = true)
    (hr : ReadyToDraw params i s) : exec i s = .next (s.need n) := by
  cases i with
  | genNonce size =>
    obtain ⟨hsize, rfl⟩ := (drawLength_genNonce_eq_some_iff size n).mp hn
    rw [exec_genNonce_run size hrun, State.checked_of_ok params s _ hl, if_neg hsize]
  | gcmEnc =>
    cases hn
    rw [exec_gcmEnc_run hrun, State.checked_of_ok params s _ hl, if_neg (Nat.not_lt.mpr (hr.gcm_key rfl))]
  | cbcEnc sel =>
    cases hn
    rw [exec_cbcEnc_run sel hrun, State.checked_of_ok params s _ hl, if_neg (hr.hash sel rfl)]
  | clear | pad _ | unpad | gcmDec | cbcDec _ => cases hn

@[simp] theorem State.finish_phase (r : Except EngineError Bytes) : (s.finish r).phase = .run := by cases r <;> rfl

/-- The length check and then a completion: the sequencer is back in `P_RUN`. -/
theorem State.checked_finish_phase (p : Config.Params) (r : Except EngineError Bytes) :
    (s.checked p (s.finish r)).phase = .run :=
  State.checked_of (P := fun u => u.phase = .run) rfl fun _ => State.finish_phase r

theorem phase_of_exec_of_draws_nothing (hn : drawLength i = none) (hrun : s.phase = .run) (h : exec i s = .next t) :
    t.phase = .run := by
  cases i with
  | clear => cases h; rfl
  | genNonce size =>
    rw [exec_genNonce_run size hrun, if_pos ((drawLength_genNonce_eq_none_iff size).mp hn)] at h
    cases h
    exact State.checked_finish_phase params (.ok [])
  | pad _ | unpad | gcmDec | cbcDec _ => cases h; exact State.checked_finish_phase params _
  | gcmEnc | cbcEnc _ => cases hn

/-! ### The answer step (R133, R303) -/

theorem exec_genNonce_answer (size : Byte) (a : Config.EntropyAnswer) (hwait : s.phase = .wait)
    (ha : s.answer = some a) : exec (.genNonce size) s = .next (s.finish (generateNonce size.toNat a)) := by
  simp only [exec, execGenNonce, genNonceRun, hwait, State.resume_some s _ a ha]

theorem exec_gcmEnc_answer (a : Config.EntropyAnswer) (hwait : s.phase = .wait) (ha : s.answer = some a) :
    exec .gcmEnc s = .next (s.finish (gcmEncrypt aes s.keyBytes s.inBytes a)) := by
  simp only [exec, execGcmEnc, gcmEncRun, hwait, State.resume_some s _ a ha, params]

theorem exec_cbcEnc_answer (sel : Byte) (a : Config.EntropyAnswer) (hwait : s.phase = .wait) (ha : s.answer = some a) :
    exec (.cbcEnc sel) s = .next (s.finish (cbcHmacEncrypt params s.keyBytes s.akeyBytes s.inBytes sel a)) := by
  simp only [exec, execCbcEnc, cbcEncRun, hwait, State.resume_some s _ a ha]

/-- A failed answer ends an operation that draws with `RandomSourceError`, its earlier checks passed. -/
theorem exec_of_answerFails (hn : drawLength i = some n) (hwait : s.phase = .wait) (hf : AnswerFails s n.toNat)
    (hr : ReadyToDraw params i s) : exec i s = .next (s.finishErr .randomSource) := by
  obtain ⟨a, ha, hfail⟩ := hf
  cases i with
  | genNonce size =>
    obtain ⟨hsize, rfl⟩ := (drawLength_genNonce_eq_some_iff size n).mp hn
    rw [exec_genNonce_answer size a hwait ha, generateNonce_of_failure _ a (BitVec.toNat_ne_iff_ne.mpr hsize) hfail]
    rfl
  | gcmEnc =>
    cases hn
    have hkey : 16 ≤ s.keyBytes.length := (length_keyBytes s).symm ▸ hr.gcm_key rfl
    rw [exec_gcmEnc_answer a hwait ha, gcmEncrypt_of_failure aes _ _ a hkey hfail]
    rfl
  | cbcEnc sel =>
    cases hn
    rw [exec_cbcEnc_answer sel a hwait ha, cbcHmacEncrypt_of_failure params _ _ _ sel a (hr.hash sel rfl) hfail]
    rfl
  | clear | pad _ | unpad | gcmDec | cbcDec _ => cases hn

end

end Machine
end Sys2Proof
end

section
open Sys2Proof Sys2Proof.Machine

/-- Settles O27: after its first byte a frame holds the bytes drawn for it, so equal frames have equal draws. -/
theorem differentDrawsDifferentFrames : Obligations.DifferentDrawsDifferentFrames := by
  intro p key akey pt f g sel a b hne
  constructor
  · rintro ha hb rfl
    exact hne ((gcmEncrypt_carries_draw _ _ _ f a ha).symm.trans (gcmEncrypt_carries_draw _ _ _ f b hb))
  · rintro ha hb rfl
    exact hne ((cbcHmacEncrypt_carries_draw _ _ _ _ f _ a ha).symm.trans (cbcHmacEncrypt_carries_draw _ _ _ _ f _ b hb))

/-- Settles O29: both cases end in `Finish(Ok …)`, with nothing and with the bytes of the answer. -/
theorem genNonceCompletes : Obligations.GenNonceCompletes := by
  refine fun size s => ⟨?nothing, ?answered⟩
  case nothing =>
    intro hsize hrun hl
    refine ⟨_, exec_genNonce_run size hrun, ?_⟩
    rw [State.checked_of_ok params s _ hl, if_pos hsize]
    exact s.finishOk_doneWith []
  case answered =>
    rintro hsize hwait data ⟨ha, hlen⟩
    refine ⟨_, exec_genNonce_answer size _ hwait ha, ?_⟩
    rw [generateNonce_of_success _ data (BitVec.toNat_ne_iff_ne.mpr hsize) hlen]
    exact s.finishOk_doneWith data

/-- Settles O36: the first step of an operation that draws is `Need(n)`; every other operation completes in it. -/
theorem entropyRequests : Obligations.EntropyRequests :=
  ⟨fun _ n s hn hrun hl hr => ⟨_, exec_need hn hrun hl hr, s.need_waitsFor n⟩,
    fun _ _ _ => phase_of_exec_of_draws_nothing⟩

/-- Settles O37: in each of the three operations the failed draw is the first error the answer step meets. -/
theorem entropyFailures : Obligations.EntropyFailures :=
  fun _ _ s hn hwait hf hr => ⟨_, exec_of_answerFails hn hwait hf hr, s.finishErr_failedWith _⟩

end

section
/-! Padding (spec 41_padding.md R140 to R146): how many bytes `Pad` appends and what they are, what `Unpad` makes of a
string by its last byte, and the one engine-side step of `PAD` and of `UNPAD`. -/

namespace Sys2Proof
namespace Machine

/-! ### `Pad` (R141) -/

section
variable (data : Bytes) (len : Nat) {bs : Nat}

theorem padCount_pos (h : 0 < bs) : 0 < padCount len bs := Nat.sub_pos_of_lt (Nat.mod_lt len h)

theorem padCount_le : padCount len bs ≤ bs := Nat.sub_le ..

/-- The padding reaches the next multiple of the block size. -/
theorem add_padCount (h : 0 < bs) : len + padCount len bs = bs * (len / bs + 1) := by
  have hmod : len % bs ≤ bs := (Nat.mod_lt len h).le
  calc len + (bs - len % bs) = bs * (len / bs) + len % bs + (bs - len % bs) := by rw [Nat.div_add_mod]
    _ = bs * (len / bs + 1) := by rw [Nat.mul_succ]; omega

/-- One byte holds the count, for every block size the byte argument of `PAD` can have. -/
theorem toNat_ofNat_padCount (h : bs ≤ 255) : (BitVec.ofNat 8 (padCount len bs)).toNat = padCount len bs :=
  (BitVec.toNat_ofNat ..).trans (Nat.mod_eq_of_lt (Nat.lt_succ_of_le ((padCount_le len).trans h)))

theorem length_padBytes : (padBytes data bs).length = data.length + padCount data.length bs := by simp [padBytes]

theorem take_padBytes (data : Bytes) : (padBytes data bs).take data.length = data := List.take_left

theorem getD_padBytes (i : Nat) (h : i < padCount data.length bs) :
    (padBytes data bs).getD (data.length + i) 0 = BitVec.ofNat 8 (padCount data.length bs) := by
  simp [padBytes, h]

theorem getLast?_padBytes (h : 0 < bs) :
    (padBytes data bs).getLast? = some (BitVec.ofNat 8 (padCount data.length bs)) := by
  simp [padBytes, List.getLast?_append, List.getLast?_replicate, (padCount_pos data.length h).ne']

end

/-! ### `Unpad` (R144, R146) -/

theorem unpadBytes_nil : unpadBytes [] = .error .malformedPadding := rfl

/-- Only the last byte decides. -/
theorem unpadBytes_of_getLast? (data : Bytes) (n : Byte) (h : data.getLast? = some n) : unpadBytes data =
    if data.length < n.toNat then .error .malformedPadding else .ok (data.take (data.length - n.toNat)) := by
  simp only [unpadBytes, h]

theorem unpadBytes_padBytes (data : Bytes) (bs : Nat) (hpos : 0 < bs) (hle : bs ≤ 255) :
    unpadBytes (padBytes data bs) = .ok data := by
  rw [unpadBytes_of_getLast? _ _ (getLast?_padBytes data hpos), toNat_ofNat_padCount _ hle, length_padBytes,
    if_neg (Nat.not_lt.mpr (Nat.le_add_left ..)), Nat.add_sub_cancel, take_padBytes]

/-! ### The two commands (R140, R143) -/

theorem padResult_zero (data : Bytes) : padResult 0 data = .error .invalidBlockSize := if_pos rfl

theorem padResult_of_ne_zero (bs : Byte) (data : Bytes) (h : bs ≠ 0) :
    padResult bs data = .ok (padBytes data bs.toNat) := if_neg h

section
variable {s : State} (hl : s.lengthsOk params = true)
include hl

theorem exec_pad (bs : Byte) : exec (.pad bs) s = .next (s.finish (padResult bs s.inBytes)) :=
  congrArg Host.Outcome.next (State.checked_of_ok params s _ hl)

theorem exec_unpad : exec .unpad s = .next (s.finish (unpadBytes s.inBytes)) :=
  congrArg Host.Outcome.next (State.checked_of_ok params s _ hl)

/-- `UNPAD` by the last byte of `IN[0..IN_LEN)`. -/
theorem exec_unpad_of_append (front : Bytes) (n : Byte) (hin : s.inBytes = front ++ [n]) : exec .unpad s =
    .next (s.finish (if s.inLen.toNat < n.toNat then .error .malformedPadding
      else .ok ((front ++ [n]).take (s.inLen.toNat - n.toNat)))) := by
  rw [exec_unpad hl, unpadBytes_of_getLast? _ n (hin ▸ List.getLast?_concat), length_inBytes, hin]

end

end Machine
end Sys2Proof
end

section
open Sys2Proof Sys2Proof.Machine

/-- Settles O7: the count lies between 1 and `bs`, so a byte holds it, and it completes the last block. -/
theorem padAppendsItsCount : Obligations.PadAppendsItsCount := fun data bs hpos hle =>
  ⟨padCount data.length bs, rfl, padCount_pos _ hpos, padCount_le _, take_padBytes data,
    fun i hi => by rw [getD_padBytes data i hi, toNat_ofNat_padCount _ hle],
    length_padBytes data, (length_padBytes data).trans (add_padCount _ hpos)⟩

/-- Settles O8: the last byte of the padded string is the number of bytes that were appended. -/
theorem unpadUndoesPad : Obligations.UnpadUndoesPad := unpadBytes_padBytes

/-- Settles O30: `PAD` ends in `Finish(Ok …)` of the padded string. -/
theorem padCompletes : Obligations.PadCompletes := by
  rintro bs s n hbs hl rfl
  refine ⟨_, exec_pad hl bs, ?_⟩
  rw [padResult_of_ne_zero bs _ hbs, padBytes, length_inBytes]
  exact s.finishOk_doneWith _

/-- Settles O31: the last byte is no larger than the string, so `Unpad` takes that many bytes off. -/
theorem unpadCompletes : Obligations.UnpadCompletes := by
  intro s front n hl hin hle
  refine ⟨_, exec_unpad_of_append hl front n hin, ?_⟩
  rw [if_neg (Nat.not_lt.mpr hle)]
  exact s.finishOk_doneWith _

/-- Settles O39: in each case the result is the error, and the command ends in `Finish(Err …)`. -/
theorem paddingErrors : Obligations.PaddingErrors := by
  refine fun s hl => ⟨?zero, ?empty, ?tooShort⟩
  case zero =>
    refine ⟨_, exec_pad hl 0, ?_⟩
    rw [padResult_zero]
    exact s.finishErr_failedWith _
  case empty =>
    intro hlen
    have hin : s.inBytes = [] := List.length_eq_zero_iff.mp (by rw [length_inBytes, hlen]; rfl)
    refine ⟨_, exec_unpad hl, ?_⟩
    rw [hin, unpadBytes_nil]
    exact s.finishErr_failedWith _
  case tooShort =>
    intro front n hin hlt
    refine ⟨_, exec_unpad_of_append hl front n hin, ?_⟩
    rw [if_pos hlt]
    exact s.finishErr_failedWith _

end

section
/-! The multiplication of Galois/Counter mode (spec 42_gcm_codec.md R166 to R168): `GfMul` is additive in its second
argument, `80 00..00` is its one there, and it commutes with every additive map that commutes with the shift. The
multiplications by a block are such maps, which gives the other laws. -/

namespace Sys2Proof
namespace Machine

/-! ### The shift (R167) -/

theorem gfShift_eq_xor (v : Block) : gfShift v = (v >>> 1) ^^^ (if blockBit v 127 then gfR else 0) := by
  unfold gfShift
  cases blockBit v 127 <;> simp

theorem gfShift_xor (a b : Block) : gfShift (a ^^^ b) = gfShift a ^^^ gfShift b := by
  have hbit : blockBit (a ^^^ b) 127 = (blockBit a 127 ^^ blockBit b 127) := BitVec.getLsbD_xor
  have hR (p q : Bool) : (if p ^^ q then gfR else 0) = (if p then gfR else 0) ^^^ (if q then gfR else 0) := by
    cases p <;> cases q <;> simp
  rw [gfShift_eq_xor, gfShift_eq_xor a, gfShift_eq_xor b, hbit, hR, BitVec.ushiftRight_xor_distrib]
  ac_rfl

/-- Before the last bit the shift moves a single bit one place. -/
theorem gfShift_twoPow (n : Nat) (h : n < 127) : gfShift (BitVec.twoPow 128 (n + 1)) = BitVec.twoPow 128 n := by
  have hlast : blockBit (BitVec.twoPow 128 (n + 1)) 127 = false := by simp [blockBit]
  rw [gfShift, if_pos hlast]
  ext i hi
  rw [BitVec.getElem_ushiftRight, BitVec.getLsbD_twoPow, BitVec.getElem_twoPow, decide_eq_true (by omega : n + 1 < 128),
    Bool.true_and, decide_eq_decide]
  omega

/-- A map of blocks that is additive and commutes with the shift, as the multiplication by a block is. -/
structure GfLinear (f : Block → Block) : Prop where
  xor   : ∀ a b, f (a ^^^ b) = f a ^^^ f b
  shift : ∀ a, f (gfShift a) = gfShift (f a)

theorem gfLinear_gfShift : GfLinear gfShift := ⟨gfShift_xor, fun _ => rfl⟩

theorem GfLinear.zero {f : Block → Block} (hf : GfLinear f) : f 0 = 0 := by
  have h := hf.xor 0 0
  rwa [BitVec.xor_self, BitVec.xor_self] at h

/-! ### The loop (R167) -/

theorem GfLinear.map_gfLoop {f : Block → Block} (hf : GfLinear f) (x : Block) (n i : Nat) (z v : Block) :
    f (gfLoop x n i z v) = gfLoop x n i (f z) (f v) := by
  induction n generalizing i z v with
  | zero => rfl
  | succ n ih => rw [gfLoop, gfLoop, ih, hf.shift, apply_ite f, hf.xor]

theorem GfLinear.map_gfMul {f : Block → Block} (hf : GfLinear f) (x y : Block) : f (gfMul x y) = gfMul x (f y) := by
  rw [gfMul, gfMul, hf.map_gfLoop, hf.zero]

theorem gfLoop_xor (x : Block) (n i : Nat) (z w v u : Block) :
    gfLoop x n i (z ^^^ w) (v ^^^ u) = gfLoop x n i z v ^^^ gfLoop x n i w u := by
  induction n generalizing i z w v u with
  | zero => rfl
  | succ n ih =>
    rw [gfLoop, gfLoop, gfLoop, ← ih, gfShift_xor]
    congr 1
    split
    · ac_rfl
    · rfl

/-- The low `n + 1` bits of a block are its bit `n` and its low `n` bits. -/
theorem setWidth_succ_eq_xor (x : Block) (n : Nat) : (x.setWidth (n + 1)).setWidth 128 =
    (if x.getLsbD n then BitVec.twoPow 128 n else 0) ^^^ (x.setWidth n).setWidth 128 := by
  ext i hi
  rcases eq_or_ne i n with rfl | hne
  · cases hbit : x.getLsbD i <;> simp [hbit, BitVec.getElem_twoPow]
  · have hle : i < n + 1 ↔ i < n := by omega
    split <;> simp [BitVec.getElem_twoPow, hle, hne]

/-- From a single bit on, the loop copies the rest of `x`, its low `n` bits, into the accumulator. -/
theorem gfLoop_twoPow (x : Block) (n : Nat) (hn : n ≤ 128) (z v : Block)
    (hv : 0 < n → v = BitVec.twoPow 128 (n - 1)) :
    gfLoop x n (128 - n) z v = z ^^^ (x.setWidth n).setWidth 128 := by
  induction n generalizing z v with
  | zero => rw [gfLoop, BitVec.eq_nil (x.setWidth 0)]; exact (BitVec.xor_zero).symm
  | succ n ih =>
    have hbit : blockBit x (128 - (n + 1)) = x.getLsbD n := by rw [blockBit]; congr 1; omega
    have hnext : 0 < n → gfShift v = BitVec.twoPow 128 (n - 1) := fun hpos => by
      obtain ⟨m, rfl⟩ := Nat.exists_eq_add_one.mpr hpos
      rw [hv (Nat.succ_pos _), Nat.add_sub_cancel, Nat.add_sub_cancel, gfShift_twoPow m (by omega)]
    rw [gfLoop, show 128 - (n + 1) + 1 = 128 - n by omega, ih (by omega) _ _ hnext, hbit, setWidth_succ_eq_xor,
      hv (Nat.succ_pos n), Nat.add_sub_cancel]
    split
    · rw [BitVec.xor_assoc]
    · simp

/-! ### The laws (R168) -/

/-- `80 00..00`, the one of the multiplication. -/
theorem gfMul_one (x : Block) : gfMul x 0x80000000000000000000000000000000 = x := by
  have h := gfLoop_twoPow x 128 le_rfl 0 0x80000000000000000000000000000000 fun _ => by decide
  simpa [gfMul] using h

/-- Multiplication by a block is additive and commutes with the shift. -/
theorem gfLinear_gfMul (x : Block) : GfLinear (gfMul x) where
  xor a b := gfLoop_xor x 128 0 0 0 a b
  shift a := (gfLinear_gfShift.map_gfMul x a).symm

theorem gfMul_left_comm (w x y : Block) : gfMul w (gfMul x y) = gfMul x (gfMul w y) :=
  (gfLinear_gfMul w).map_gfMul x y

theorem gfMul_comm (x y : Block) : gfMul x y = gfMul y x := by
  have h := gfMul_left_comm x y 0x80000000000000000000000000000000
  rwa [gfMul_one, gfMul_one] at h

theorem gfMul_xor_left (x w y : Block) : gfMul (x ^^^ w) y = gfMul x y ^^^ gfMul w y := by
  rw [gfMul_comm, (gfLinear_gfMul y).xor, gfMul_comm y x, gfMul_comm y w]

theorem gfMul_assoc (x y w : Block) : gfMul (gfMul x y) w = gfMul x (gfMul y w) := by
  rw [gfMul_comm, gfMul_left_comm, gfMul_comm w y]

end Machine
end Sys2Proof
end

section
open Sys2Proof Sys2Proof.Machine

/-- Settles O15: the laws follow from what multiplication by a block is, an additive map that commutes with the shift;
the worked values are evaluated. -/
theorem gfMulLaws : Obligations.GfMulLaws :=
  ⟨gfMul_comm, gfMul_xor_left, fun y => (gfMul_comm 0 y).trans (gfLinear_gfMul y).zero,
    fun y => (gfMul_comm _ y).trans (gfMul_one y), gfMul_assoc, by decide +kernel, by decide +kernel,
    by decide +kernel, by decide +kernel⟩

end

section
/-! Galois/Counter mode and the two GCM commands (spec 42_gcm_codec.md R160 to R178): the counter, `GCTR` as its own
inverse, what opens, and the completions of `GCM_ENC` and `GCM_DEC`. -/

namespace Sys2Proof
namespace Machine

/-! ### The counter (R169) -/

/-- The last `n` bytes of an encoding are the number modulo `256^n`, the others encode the rest. -/
theorem beBytes_add (m n v : Nat) : beBytes (m + n) v = beBytes m (v / 256 ^ n) ++ beBytes n v := by
  induction n generalizing v with
  | zero => simp [beBytes]
  | succ n ih =>
    rw [← Nat.add_assoc, beBytes_succ, ih, beBytes_succ n, Nat.div_div_eq_div_mul, ← Nat.pow_succ',
      List.append_assoc]

theorem take_twelve_blockBytes (b : Block) : (blockBytes b).take 12 = beBytes 12 (b.toNat / 2 ^ 32) := by
  rw [blockBytes, beBytes_add 12 4, List.take_left' (length_beBytes ..)]
  rfl

theorem intOf_drop_twelve_blockBytes (b : Block) : intOf ((blockBytes b).drop 12) = b.toNat % 2 ^ 32 := by
  rw [blockBytes, beBytes_add 12 4, List.drop_left' (length_beBytes ..), intOf_beBytes]
  rfl

/-- The first 12 bytes as a number stay, the last four count modulo `2^32`. -/
theorem toNat_inc32 (b : Block) : (inc32 b).toNat = b.toNat / 2 ^ 32 * 2 ^ 32 + (b.toNat + 1) % 2 ^ 32 := by
  have hhigh : b.toNat / 2 ^ 32 < 2 ^ 96 := Nat.div_lt_of_lt_mul b.isLt
  have hlow : (b.extractLsb' 0 32 + 1).toNat = (b.toNat + 1) % 2 ^ 32 := by simp
  rw [inc32, BitVec.toNat_append, ← Nat.shiftLeft_add_eq_or_of_lt (BitVec.isLt _), hlow, BitVec.extractLsb'_toNat,
    Nat.shiftRight_eq_div_pow, Nat.shiftLeft_eq, Nat.mod_eq_of_lt hhigh]

/-! ### `GCTR` (R173) -/

theorem xorBytes_xorBytes (a s : Bytes) (h : a.length ≤ s.length) : xorBytes (xorBytes a s) s = a := by
  induction a generalizing s with
  | nil => rfl
  | cons b a ih =>
    cases s with
    | nil => cases h
    | cons c s =>
      have htail : xorBytes (xorBytes a s) s = a := ih s (Nat.le_of_succ_le_succ h)
      have hhead : b ^^^ c ^^^ c = b := by rw [BitVec.xor_assoc, BitVec.xor_self, BitVec.xor_zero]
      exact congrArg₂ List.cons hhead htail

theorem gctrBlocks_nil (bc : Config.BlockCipher) (k : Bytes) (n : Nat) (cb : Block) : gctrBlocks bc k n cb [] = [] :=
  List.length_eq_zero_iff.mp (by simp [length_gctrBlocks])

/-- The first 16 bytes: either they are the whole string, or they are a full block. -/
theorem take_gctrBlocks_succ (bc : Config.BlockCipher) (k : Bytes) (n : Nat) (cb : Block) (x : Bytes) :
    (gctrBlocks bc k (n + 1) cb x).take 16 = xorBytes (x.take 16) (blockBytes (bc.enc k cb)) := by
  rw [gctrBlocks]
  rcases Nat.le_total x.length 16 with hx | hx
  · rw [List.drop_eq_nil_of_le hx, gctrBlocks_nil, List.append_nil, List.take_of_length_le (by simp)]
  · exact List.take_left' (by simp [hx])

theorem drop_gctrBlocks_succ (bc : Config.BlockCipher) (k : Bytes) (n : Nat) (cb : Block) (x : Bytes) :
    (gctrBlocks bc k (n + 1) cb x).drop 16 = gctrBlocks bc k n (inc32 cb) (x.drop 16) := by
  rw [gctrBlocks]
  rcases Nat.le_total x.length 16 with hx | hx
  · rw [List.drop_eq_nil_of_le hx, gctrBlocks_nil, List.append_nil, List.drop_eq_nil_of_le (by simp)]
  · exact List.drop_left' (by simp [hx])

theorem gctrBlocks_gctrBlocks (bc : Config.BlockCipher) (k : Bytes) (n : Nat) (cb : Block) (x : Bytes)
    (h : x.length ≤ 16 * n) : gctrBlocks bc k n cb (gctrBlocks bc k n cb x) = x := by
  induction n generalizing cb x with
  | zero => exact (List.length_eq_zero_iff.mp (Nat.le_zero.mp h)).symm
  | succ n ih =>
    have hfirst : xorBytes (xorBytes (x.take 16) (blockBytes (bc.enc k cb))) (blockBytes (bc.enc k cb)) = x.take 16 :=
      xorBytes_xorBytes _ _ (by simp)
    have hrest := ih (inc32 cb) (x.drop 16) (by rw [List.length_drop]; omega)
    rw [gctrBlocks, take_gctrBlocks_succ, drop_gctrBlocks_succ, hfirst, hrest, List.take_append_drop]

theorem gctr_gctr (bc : Config.BlockCipher) (k : Bytes) (icb : Block) (x : Bytes) :
    gctr bc k icb (gctr bc k icb x) = x := by
  rw [gctr, length_gctr, gctr, gctrBlocks_gctrBlocks _ _ _ _ _ (by omega)]

/-! ### What opens (R175, R176) -/

/-- The differences gathered are zero when there is none. -/
theorem foldl_or_xorBytes_eq_zero (a b : Bytes) (h : a.length = b.length) (acc : Byte) :
    (xorBytes a b).foldl (fun acc d => acc ||| d) acc = 0 ↔ acc = 0 ∧ a = b := by
  induction a generalizing b acc with
  | nil =>
    obtain rfl := List.length_eq_zero_iff.mp h.symm
    simp [xorBytes]
  | cons x a ih =>
    cases b with
    | nil => cases h
    | cons y b =>
      have hstep : (xorBytes (x :: a) (y :: b)).foldl (fun acc d => acc ||| d) acc =
          (xorBytes a b).foldl (fun acc d => acc ||| d) (acc ||| (x ^^^ y)) := rfl
      have hor : acc ||| (x ^^^ y) = 0 ↔ acc = 0 ∧ x = y :=
        BitVec.or_eq_zero_iff.trans (and_congr_right' BitVec.xor_eq_zero_iff)
      rw [hstep, ih b (Nat.succ.inj h), hor, List.cons.injEq, and_assoc]

/-- As a value, `CtEq` is equality (R208). -/
theorem ctEq_eq_true_iff (a b : Bytes) : ctEq a b = true ↔ a = b := by
  unfold ctEq
  split
  · rename_i h
    rw [beq_iff_eq, foldl_or_xorBytes_eq_zero a b h, and_iff_right rfl]
  · rename_i h
    exact iff_of_false (by decide) fun hab => h (congrArg List.length hab)

/-- A string that ends in 16 bytes opens when these are the tag of the rest. -/
theorem gcmOpen_append (bc : Config.BlockCipher) (k nonce c t : Bytes) (ht : t.length = 16) :
    gcmOpen bc k nonce (c ++ t) =
      if t = blockBytes (gcmTag bc k nonce c) then some (gctr bc k (inc32 (preCounter nonce)) c) else none := by
  have hc : (c ++ t).length - 16 = c.length := by simp [ht]
  have hlen : ¬ (c ++ t).length < 16 := by simp [ht]
  have heq : ctEq (blockBytes (gcmTag bc k nonce c)) t = false ↔ ¬ t = blockBytes (gcmTag bc k nonce c) := by
    rw [← Bool.not_eq_true, ctEq_eq_true_iff, eq_comm]
  simp only [gcmOpen, hc, List.take_left, List.drop_left, if_neg hlen, heq, ite_not]

theorem gcmOpen_of_lt (bc : Config.BlockCipher) (k nonce ct : Bytes) (h : ct.length < 16) :
    gcmOpen bc k nonce ct = none := if_pos h

theorem gcmOpen_gcmSeal (bc : Config.BlockCipher) (k nonce pt : Bytes) :
    gcmOpen bc k nonce (gcmSeal bc k nonce pt) = some pt := by
  simp only [gcmSeal]
  rw [gcmOpen_append _ _ _ _ _ (length_blockBytes _), if_pos rfl, gctr_gctr]

/-! ### The two commands (R160 to R164) -/

/-- The frame `0c || nonce || ct`. -/
theorem serializeGcmFrame_eq (nonce ct : Bytes) (hn : nonce.length = 12) :
    serializeGcmFrame nonce ct = 12 :: (nonce ++ ct) := by rw [serializeGcmFrame, lengthByte_eq nonce 12 hn]

theorem gcmEncrypt_of_success (bc : Config.BlockCipher) (key pt nonce : Bytes) (hkey : 16 ≤ key.length)
    (hn : nonce.length = 12) : gcmEncrypt bc key pt { ok := true, data := nonce } =
      .ok (12 :: (nonce ++ gcmSeal bc (key.take 16) nonce pt)) := by
  simp only [gcmEncrypt, gcmKey_of_le key hkey, generateNonce_of_success 12 nonce (by decide) hn,
    serializeGcmFrame_eq nonce _ hn]

theorem gcmDecrypt_of_frame (bc : Config.BlockCipher) (key nonce ct : Bytes) (hkey : 16 ≤ key.length)
    (hn : nonce.length = 12) : gcmDecrypt bc key (12 :: (nonce ++ ct)) =
      (gcmOpen bc (key.take 16) nonce ct).elim (.error .authenticationFailed) .ok := by
  have hf : parseGcmFrame (12 :: (nonce ++ ct)) = .ok { nonce := nonce, ct := ct } :=
    (parseGcmFrame_eq_ok_iff _ _).mpr ⟨hn, serializeGcmFrame_eq nonce ct hn⟩
  simp only [gcmDecrypt, gcmKey_of_le key hkey, hf]
  cases gcmOpen bc (key.take 16) nonce ct <;> rfl

theorem exec_gcmDec {s : State} (hl : s.lengthsOk params = true) :
    exec .gcmDec s = .next (s.finish (gcmDecrypt aes s.keyBytes s.inBytes)) :=
  congrArg Host.Outcome.next (State.checked_of_ok params s _ hl)

end Machine
end Sys2Proof
end

section
open Sys2Proof Sys2Proof.Machine

/-- Settles O16: a block is its first 12 bytes and a number below `2^32`, and `inc32` counts that number on. -/
theorem inc32CountsInLastFourBytes : Obligations.Inc32CountsInLastFourBytes := by
  refine ⟨fun b => ⟨?_, ?_⟩, by decide, by decide⟩
  · rw [take_twelve_blockBytes, take_twelve_blockBytes, toNat_inc32]
    congr 1; omega
  · rw [intOf_drop_twelve_blockBytes, intOf_drop_twelve_blockBytes, toNat_inc32]
    omega

/-- Settles O17: both runs xor the same key stream. -/
theorem gctrIsItsOwnInverse : Obligations.GctrIsItsOwnInverse :=
  fun bc k icb x => ⟨length_gctr bc k icb x, gctr_gctr bc k icb x⟩

/-- Settles O18: the tag the seal ends in is the one that opening recomputes, and `GCTR` undoes itself. -/
theorem gcmOpenInvertsSeal : Obligations.GcmOpenInvertsSeal :=
  fun bc k nonce pt => ⟨gcmOpen_gcmSeal bc k nonce pt, length_gcmSeal bc k nonce pt⟩

/-- Settles O19: opening compares the last 16 bytes with the recomputed tag. -/
theorem gcmWrongTagNeverOpens : Obligations.GcmWrongTagNeverOpens := fun bc k nonce c t =>
  ⟨fun ht hne => (gcmOpen_append bc k nonce c t ht).trans (if_neg hne), gcmOpen_of_lt bc k nonce c⟩

/-- Settles O20: both functions use the key through `gcmKey` only. -/
theorem gcmUsesSixteenKeyBytes : Obligations.GcmUsesSixteenKeyBytes := by
  intro bc key key' text a hkey hkey' heq
  have hk : gcmKey key = gcmKey key' := by rw [gcmKey_of_le key hkey, gcmKey_of_le key' hkey', heq]
  exact ⟨by rw [gcmEncrypt, gcmEncrypt, hk], by rw [gcmDecrypt, gcmDecrypt, hk]⟩

/-- Settles O32: `GCM_ENC` ends in `Finish(Ok …)` of the frame. -/
theorem gcmEncCompletes : Obligations.GcmEncCompletes := by
  rintro s nonce hwait ⟨ha, hn⟩ hkey
  refine ⟨_, exec_gcmEnc_answer _ hwait ha, ?_⟩
  rw [gcmEncrypt_of_success aes _ _ nonce (by rwa [length_keyBytes]) hn]
  exact s.finishOk_doneWith _

/-- Settles O33: `GCM_DEC` ends in `Finish(Ok …)` of what the ciphertext field opens to. -/
theorem gcmDecCompletes : Obligations.GcmDecCompletes := by
  intro s nonce ct pt hl hkey hn hin hopen
  refine ⟨_, exec_gcmDec hl, ?_⟩
  rw [hin, gcmDecrypt_of_frame aes _ nonce ct (by rwa [length_keyBytes]) hn, hopen]
  exact s.finishOk_doneWith pt

/-- Settles O21: the frame of `GCM_ENC` holds the seal under the first 16 key bytes, and that opens to the plaintext. -/
theorem gcmRoundTrip : Obligations.GcmRoundTrip := by
  intro s nonce hwait hans hkey
  obtain ⟨t, hexec, hdone⟩ := gcmEncCompletes s nonce hwait hans hkey
  refine ⟨t, _, hexec, hdone, ?length, fun u hl hukey hshare hin => ?opens⟩
  case length =>
    rw [List.length_cons, List.length_append, length_gcmSeal, length_inBytes, hans.2]
    omega
  case opens =>
    refine gcmDecCompletes u nonce _ s.inBytes hl hukey hans.2 hin ?_
    rw [hshare, gcmOpen_gcmSeal]

end

section
/-! Cipher-block chaining with a MAC and the two CBC commands (spec 43_cbc_hmac_codec.md R200 to R213): chaining blocks
and unchaining them, what the codec makes of a frame by its MAC, and the completions of `CBC_ENC` and `CBC_DEC`. -/

namespace Sys2Proof
namespace Machine

/-! ### Blocks and byte strings (R16) -/

theorem bytesOfBlocks_cons (b : Block) (bs : List Block) :
    bytesOfBlocks (b :: bs) = blockBytes b ++ bytesOfBlocks bs := rfl

/-- Cutting a string into pieces of 16 bytes and joining them. -/
theorem bytesOfBlocks_map_pieces (m : Nat) (s : Bytes) (h : s.length = 16 * m) :
    bytesOfBlocks ((pieces 16 m s).map blockOf) = s := by
  induction m generalizing s with
  | zero => exact (List.length_eq_zero_iff.mp h).symm
  | succ m ih =>
    have hfirst : (s.take 16).length = 16 := List.length_take_of_le (by omega)
    have hrest := ih (s.drop 16) (by rw [List.length_drop]; omega)
    rw [pieces, List.map_cons, bytesOfBlocks_cons, blockBytes_blockOf _ hfirst, hrest, List.take_append_drop]

theorem bytesOfBlocks_blocksOf (s : Bytes) (h : s.length % 16 = 0) : bytesOfBlocks (blocksOf s) = s :=
  bytesOfBlocks_map_pieces _ s (by omega)

theorem map_pieces_bytesOfBlocks (bs : List Block) :
    (pieces 16 bs.length (bytesOfBlocks bs)).map blockOf = bs := by
  induction bs with
  | nil => rfl
  | cons b bs ih =>
    rw [bytesOfBlocks_cons, List.length_cons, pieces, List.take_left' (length_blockBytes b),
      List.drop_left' (length_blockBytes b), List.map_cons, blockOf_blockBytes, ih]

@[simp] theorem blocksOf_bytesOfBlocks (bs : List Block) : blocksOf (bytesOfBlocks bs) = bs := by
  rw [blocksOf, length_bytesOfBlocks, Nat.mul_div_cancel_left _ (by decide), map_pieces_bytesOfBlocks]

/-! ### Block chaining (R205, R206) -/

/-- Both loops carry the same chaining value, the last block of ciphertext. -/
theorem cbcDecFrom_cbcEncFrom (bc : Config.BlockCipher) (hbc : bc.Valid) (k : Bytes) (hk : k.length ∈ bc.keyLens)
    (cv : Block) (xs : List Block) : cbcDecFrom bc k cv (cbcEncFrom bc k cv xs) = xs := by
  induction xs generalizing cv with
  | nil => rfl
  | cons x xs ih =>
    have hx : bc.dec k (bc.enc k (x ^^^ cv)) ^^^ cv = x := by
      rw [hbc.inverse k _ hk, BitVec.xor_assoc, BitVec.xor_self, BitVec.xor_zero]
    rw [cbcEncFrom, cbcDecFrom, hx, ih]

theorem length_cbcEncryptBlocks (bc : Config.BlockCipher) (k iv pt : Bytes) (h : pt.length % 16 = 0) :
    (cbcEncryptBlocks bc k iv pt).length = pt.length := by
  rw [cbcEncryptBlocks, length_bytesOfBlocks, length_cbcEncFrom, length_blocksOf]
  omega

theorem cbcDecryptBlocks_cbcEncryptBlocks (bc : Config.BlockCipher) (hbc : bc.Valid) (k iv pt : Bytes)
    (hk : k.length ∈ bc.keyLens) (h : pt.length % 16 = 0) :
    cbcDecryptBlocks bc k iv (cbcEncryptBlocks bc k iv pt) = pt := by
  rw [cbcDecryptBlocks, cbcEncryptBlocks, blocksOf_bytesOfBlocks, cbcDecFrom_cbcEncFrom bc hbc k hk,
    bytesOfBlocks_blocksOf pt h]

/-- The padded plaintext fills its last block, and there is at least one (R141, R201). -/
theorem length_padBytes_sixteen (data : Bytes) : (padBytes data 16).length = 16 * (data.length / 16 + 1) :=
  (length_padBytes data).trans (add_padCount _ (by decide))

theorem padBytes_sixteen_mod (data : Bytes) : (padBytes data 16).length % 16 = 0 := by
  rw [length_padBytes_sixteen, Nat.mul_mod_right]

/-! ### The frame and its MAC (R201, R203, R209) -/

/-- What `CbcHmacDecrypt` does once the MAC is verified (R203): the first time `encKey` is looked at (R209). -/
def cbcOpenVerified (bc : Config.BlockCipher) (encKey iv ct : Bytes) : Except EngineError Bytes :=
  if encKey.length ∉ bc.keyLens then .error .cipherInitialization
  else if ct.length = 0 ∨ ct.length % 16 ≠ 0 then .error .malformedCiphertext
  else unpadBytes (cbcDecryptBlocks bc encKey iv ct)

theorem cbcOpenVerified_of_blocks (bc : Config.BlockCipher) (encKey iv ct : Bytes)
    (hkey : encKey.length ∈ bc.keyLens) (hne : ct.length ≠ 0) (hmod : ct.length % 16 = 0) :
    cbcOpenVerified bc encKey iv ct = unpadBytes (cbcDecryptBlocks bc encKey iv ct) := by
  rw [cbcOpenVerified, if_neg (not_not.mpr hkey), if_neg (not_or.mpr ⟨hne, not_not.mpr hmod⟩)]

theorem unpadBytes_ne_authenticationFailed (data : Bytes) : unpadBytes data ≠ .error .authenticationFailed := by
  cases hlast : data.getLast? with
  | none => rw [List.getLast?_eq_none_iff.mp hlast, unpadBytes_nil]; simp
  | some n => rw [unpadBytes_of_getLast? data n hlast]; split <;> simp

/-- `AuthenticationFailedError` is the MAC's alone. -/
theorem cbcOpenVerified_ne_authenticationFailed (bc : Config.BlockCipher) (encKey iv ct : Bytes) :
    cbcOpenVerified bc encKey iv ct ≠ .error .authenticationFailed := by
  unfold cbcOpenVerified
  split
  · simp
  · split
    · simp
    · exact unpadBytes_ne_authenticationFailed _

section
variable {p : Config.Params} {sel : Byte} (encKey authKey : Bytes)

theorem cbcHmacDecrypt_of_no_hash (frame : Bytes) (hht : p.ht sel = none) :
    cbcHmacDecrypt p encKey authKey frame sel = .error .unsupportedHash := by
  simp only [cbcHmacDecrypt, hht]

variable {h : Config.HashAlg} (hht : p.ht sel = some h)
include hht

theorem cbcHmacDecrypt_of_parse_error (frame : Bytes) (e : EngineError) (hf : parseCbcFrame frame = .error e) :
    cbcHmacDecrypt p encKey authKey frame sel = .error e := by
  simp only [cbcHmacDecrypt, hht, hf]

/-- A string that parses is opened exactly when its MAC field is the recomputed MAC. -/
theorem cbcHmacDecrypt_of_parse (frame : Bytes) (f : CbcFrame) (hf : parseCbcFrame frame = .ok f) :
    cbcHmacDecrypt p encKey authKey frame sel =
      if f.mac = hmac h authKey (f.iv ++ f.ct) then cbcOpenVerified p.bc encKey f.iv f.ct
      else .error .authenticationFailed := by
  have hctEq : ctEq (hmac h authKey (f.iv ++ f.ct)) f.mac = false ↔ ¬ f.mac = hmac h authKey (f.iv ++ f.ct) := by
    rw [← Bool.not_eq_true, ctEq_eq_true_iff, eq_comm]
  simp only [cbcHmacDecrypt, hht, hf, hctEq, ite_not, cbcOpenVerified]

theorem cbcHmacDecrypt_of_frame (iv mac ct : Bytes) (hiv : iv.length = 16) (hmac_le : mac.length ≤ 255) :
    cbcHmacDecrypt p encKey authKey (serializeCbcFrame iv mac ct) sel =
      if mac = hmac h authKey (iv ++ ct) then cbcOpenVerified p.bc encKey iv ct else .error .authenticationFailed :=
  cbcHmacDecrypt_of_parse encKey authKey hht _ { iv, mac, ct } ((parseCbcFrame_eq_ok_iff _ _).mpr ⟨hiv, hmac_le, rfl⟩)

end

/-- Whether the MAC is the wrong one does not depend on the encryption key (R209). -/
theorem cbcHmacDecrypt_authenticationFailed (p : Config.Params) (encKey encKey' authKey frame : Bytes) (sel : Byte)
    (hfail : cbcHmacDecrypt p encKey authKey frame sel = .error .authenticationFailed) :
    cbcHmacDecrypt p encKey' authKey frame sel = .error .authenticationFailed := by
  cases hht : p.ht sel with
  | none => rw [cbcHmacDecrypt_of_no_hash encKey authKey frame hht] at hfail; cases hfail
  | some h =>
    cases hf : parseCbcFrame frame with
    | error e =>
      rw [cbcHmacDecrypt_of_parse_error encKey authKey hht frame e hf] at hfail
      rw [cbcHmacDecrypt_of_parse_error encKey' authKey hht frame e hf, hfail]
    | ok f =>
      rw [cbcHmacDecrypt_of_parse encKey authKey hht frame f hf] at hfail
      rw [cbcHmacDecrypt_of_parse encKey' authKey hht frame f hf]
      split at hfail
      · exact absurd hfail (cbcOpenVerified_ne_authenticationFailed _ _ _ _)
      · rename_i hne; exact if_neg hne

/-- An HMAC fits the one byte a frame has for its length (R104, R270). -/
theorem length_hmac_le (h : Config.HashAlg) (hv : h.Valid) (key msg : Bytes) : (hmac h key msg).length ≤ 255 := by
  rw [length_hmac h hv]
  exact hv.digest_le_64.trans (by decide)

/-- The frame `10 || iv || digestLen || mac || ct`. -/
theorem serializeCbcFrame_hmac (h : Config.HashAlg) (hv : h.Valid) (authKey iv msg ct : Bytes)
    (hiv : iv.length = 16) : serializeCbcFrame iv (hmac h authKey msg) ct =
      16 :: (iv ++ BitVec.ofNat 8 h.digestLen :: (hmac h authKey msg ++ ct)) := by
  rw [serializeCbcFrame, lengthByte_eq iv 16 hiv, lengthByte, length_hmac h hv]

theorem cbcHmacEncrypt_of_success (p : Config.Params) (encKey authKey pt iv ct : Bytes) (sel : Byte)
    (h : Config.HashAlg) (hht : p.ht sel = some h) (hiv : iv.length = 16) (hkey : encKey.length ∈ p.bc.keyLens)
    (hct : ct = cbcEncryptBlocks p.bc encKey iv (padBytes pt 16)) :
    cbcHmacEncrypt p encKey authKey pt sel { ok := true, data := iv } =
      .ok (serializeCbcFrame iv (hmac h authKey (iv ++ ct)) ct) := by
  subst hct
  simp only [cbcHmacEncrypt, hht, generateNonce_of_success 16 iv (by decide) hiv, if_neg (not_not.mpr hkey)]

/-! ### The two commands (R200, R202) -/

/-- AES takes keys of 16, 24 and 32 bytes (R242). -/
theorem length_keyBytes_mem_keyLens (s : State) (hkey : s.keyLen = 16 ∨ s.keyLen = 24 ∨ s.keyLen = 32) :
    s.keyBytes.length ∈ params.bc.keyLens := by
  rw [length_keyBytes]
  rcases hkey with h | h | h <;> rw [h] <;> decide

theorem exec_cbcDec {s : State} (sel : Byte) (hl : s.lengthsOk params = true) :
    exec (.cbcDec sel) s = .next (s.finish (cbcHmacDecrypt params s.keyBytes s.akeyBytes s.inBytes sel)) :=
  congrArg Host.Outcome.next (State.checked_of_ok params s _ hl)

/-- `ERR` tells the error an operation ended with. -/
theorem State.finish_err_eq_some_iff (s : State) (r : Except EngineError Bytes) (e : EngineError) :
    (s.finish r).err = some e ↔ r = .error e := by
  cases r with
  | ok out => simp [State.finish]
  | error e' => simp [State.finish]

/-- The two hashes of the default table, with their digest lengths (R270). -/
theorem exists_hash_of_sel (sel : Byte) (hsel : sel = 1 ∨ sel = 2) :
    ∃ h, params.ht sel = some h ∧ h.digestLen = if sel = 1 then 32 else 64 := by
  rcases hsel with rfl | rfl
  · exact ⟨_, rfl, rfl⟩
  · exact ⟨_, rfl, rfl⟩

end Machine
end Sys2Proof
end

section
open Sys2Proof Sys2Proof.Machine

/-- Settles O22: equal lengths, and no difference gathered at any byte. -/
theorem ctEqIsEquality : Obligations.CtEqIsEquality := ctEq_eq_true_iff

/-- Settles O23: the string is its blocks, and each block is decrypted with the chaining value it was encrypted with. -/
theorem cbcBlocksRoundTrip : Obligations.CbcBlocksRoundTrip := fun bc k iv pt hbc hk hmod =>
  ⟨length_cbcEncryptBlocks bc k iv pt hmod, cbcDecryptBlocks_cbcEncryptBlocks bc hbc k iv pt hk hmod⟩

/-- Settles O26: the MAC field is compared with the recomputed MAC before anything else is done with the frame. -/
theorem cbcWrongMacFails : Obligations.CbcWrongMacFails := by
  intro p encKey authKey iv mac ct sel h hht hiv hle hne
  rw [cbcHmacDecrypt_of_frame encKey authKey hht iv mac ct hiv hle, if_neg hne]

/-- Settles O25: the failure does not depend on the encryption key, and the error completion wipes the key. -/
theorem authFailureHidesTheKey : Obligations.AuthFailureHidesTheKey := by
  intro sel s t key keyLen hl hl' hexec herr
  rw [exec_cbcDec sel hl] at hexec
  cases hexec
  have hfail := (s.finish_err_eq_some_iff _ _).mp herr
  have hfail' := cbcHmacDecrypt_authenticationFailed params _ { s with key, keyLen }.keyBytes _ _ sel hfail
  rw [hfail]
  exact (exec_cbcDec sel hl').trans (congrArg (fun r => Host.Outcome.next (State.finish _ r)) hfail')

/-- Settles O34: `CBC_ENC` ends in `Finish(Ok …)` of the frame, whose MAC is one digest long. -/
theorem cbcEncCompletes : Obligations.CbcEncCompletes := by
  rintro s sel h iv ct hwait ⟨ha, hiv⟩ hht hkey hct
  refine ⟨_, exec_cbcEnc_answer sel _ hwait ha, ?_⟩
  rw [cbcHmacEncrypt_of_success params _ _ _ iv ct sel h hht hiv (length_keyBytes_mem_keyLens s hkey) hct,
    serializeCbcFrame_hmac h (defaultHashes_valid sel h hht) _ iv _ ct hiv]
  exact s.finishOk_doneWith _

/-- Settles O35: the MAC is verified, and `CBC_DEC` ends in `Finish(Ok …)` of what the ciphertext unpads to. -/
theorem cbcDecCompletes : Obligations.CbcDecCompletes := by
  intro s sel h iv ct pt hl hht hkey hiv hin hne hmod hunpad
  refine ⟨_, exec_cbcDec sel hl, ?_⟩
  have hle := length_hmac_le h (defaultHashes_valid sel h hht) s.akeyBytes (iv ++ ct)
  have hopen : cbcOpenVerified params.bc s.keyBytes iv ct = .ok pt :=
    (cbcOpenVerified_of_blocks _ _ iv ct (length_keyBytes_mem_keyLens s hkey) hne hmod).trans hunpad
  rw [hin, cbcHmacDecrypt_of_frame _ _ hht iv _ ct hiv hle, if_pos rfl, hopen]
  exact s.finishOk_doneWith pt

/-- Settles O24: the frame of `CBC_ENC` meets the hypotheses of `CBC_DEC`'s completion: its MAC is the recomputed one,
and its ciphertext is the padded plaintext, at least one block, chained under the same key. -/
theorem cbcRoundTrip : Obligations.CbcRoundTrip := by
  intro s sel iv hwait hans hsel hkey
  obtain ⟨h, hht, hdigest⟩ := exists_hash_of_sel sel hsel
  have hv := defaultHashes_valid sel h hht
  have hmod := padBytes_sixteen_mod s.inBytes
  generalize hct : cbcEncryptBlocks aes s.keyBytes iv (padBytes s.inBytes 16) = ct
  have hlen : ct.length = 16 * (s.inLen.toNat / 16 + 1) := by
    rw [← hct, length_cbcEncryptBlocks _ _ _ _ hmod, length_padBytes_sixteen, length_inBytes]
  obtain ⟨t, hexec, hdone⟩ := cbcEncCompletes s sel h iv ct hwait hans hht hkey hct.symm
  rw [← serializeCbcFrame_hmac h hv _ iv _ ct hans.2] at hdone
  refine ⟨t, _, hexec, hdone, ?length, fun u hl hukey huakey hin => ?opens⟩
  case length =>
    rw [length_serializeCbcFrame, length_hmac h hv, hans.2, hdigest, hlen]
  case opens =>
    have hukeyLen : u.keyLen = s.keyLen := BitVec.eq_of_toNat_eq (by rw [← length_keyBytes, hukey, length_keyBytes])
    have hunpad : unpadBytes (cbcDecryptBlocks aes u.keyBytes iv ct) = .ok s.inBytes := by
      rw [hukey, ← hct, cbcDecryptBlocks_cbcEncryptBlocks aes aes_valid _ _ _ (length_keyBytes_mem_keyLens s hkey) hmod,
        unpadBytes_padBytes _ _ (by decide) (by decide)]
    exact cbcDecCompletes u sel h iv ct s.inBytes hl hht (hukeyLen.symm ▸ hkey) hans.2 (huakey.symm ▸ hin)
      (by omega) (by omega) hunpad

end

section
/-! The facts about multiplication in GF(2^8) that tie the S-box to its definition (44_block_cipher.md R244, R245). The
definition's inverse is unique because two factors on the right can change places, `(a · b) · c = (a · c) · b`. -/

namespace Sys2Proof
namespace Machine

/-! ### Multiplication in GF(2^8) (R244) -/

/-- A map that keeps xor and `xtime` goes through the loop of `mul8`. -/
theorem foldl_mul8Step_map (φ : Byte → Byte) (hxor : ∀ a b, φ (a ^^^ b) = φ a ^^^ φ b)
    (hxtime : ∀ a, φ (xtime a) = xtime (φ a)) (c : Byte) (l : List Nat) (y a : Byte) :
    l.foldl (mul8Step c) (φ y, φ a) = (l.foldl (mul8Step c) (y, a)).map φ φ := by
  have hstep (y a : Byte) (i : Nat) : mul8Step c (φ y, φ a) i = (mul8Step c (y, a) i).map φ φ := by
    unfold mul8Step
    split <;> simp [hxor, hxtime]
  induction l generalizing y a with
  | nil => rfl
  | cons i l ih => rw [List.foldl_cons, hstep]; exact ih _ _

/-- A map that keeps xor and `xtime` goes through a product. -/
theorem map_mul8 (φ : Byte → Byte) (hxor : ∀ a b, φ (a ^^^ b) = φ a ^^^ φ b)
    (hxtime : ∀ a, φ (xtime a) = xtime (φ a)) (a c : Byte) : φ (mul8 a c) = mul8 (φ a) c := by
  have hzero : φ 0 = 0 := by simpa using hxor 0 0
  have h := foldl_mul8Step_map φ hxor hxtime c (List.range 8) 0 a
  rw [hzero] at h
  exact (congrArg Prod.fst h).symm

theorem mul8_xtime (a c : Byte) : mul8 (xtime a) c = xtime (mul8 a c) :=
  (map_mul8 xtime xtime_xor (fun _ => rfl) a c).symm

theorem mul8_right_comm (a b c : Byte) : mul8 (mul8 a b) c = mul8 (mul8 a c) b :=
  map_mul8 (mul8 · c) (fun x y => mul8_xor x y c) (fun x => mul8_xtime x c) a b

theorem zero_mul8 (c : Byte) : mul8 0 c = 0 := by simpa using mul8_xor 0 0 c

theorem one_mul8 (c : Byte) : mul8 1 c = c := by revert c; decide +kernel

/-- A byte has at most one inverse. -/
theorem mul8_inverse_unique {a b c : Byte} (hb : mul8 a b = 1) (hc : mul8 a c = 1) : b = c := by
  calc b = mul8 (mul8 a c) b := by rw [hc, one_mul8]
    _ = mul8 (mul8 a b) c := mul8_right_comm a c b
    _ = c := by rw [hb, one_mul8]

/-! ### The S-box and its definition (R245) -/

/-- The affine step of R245 undone. -/
def sboxAffineInv (s : Byte) : Byte := s.rotateLeft 1 ^^^ s.rotateLeft 3 ^^^ s.rotateLeft 6 ^^^ 0x05

theorem sboxAffine_sboxAffineInv (s : Byte) : sboxAffine (sboxAffineInv s) = s := by revert s; decide +kernel

/-- What the table `SBOX` holds for a non-zero byte is its inverse, once the affine step is undone. -/
theorem mul8_sboxAffineInv_sbox (a : Byte) (ha : a ≠ 0) : mul8 a (sboxAffineInv (sbox a)) = 1 := by
  revert a; decide +kernel

theorem sbox_of_mul8_eq_one {a b : Byte} (h : mul8 a b = 1) : sbox a = sboxAffine b := by
  have ha : a ≠ 0 := by
    rintro rfl
    rw [zero_mul8] at h
    exact absurd h (by decide)
  rw [mul8_inverse_unique h (mul8_sboxAffineInv_sbox a ha), sboxAffine_sboxAffineInv]

end Machine
end Sys2Proof
end

section
open Sys2Proof Sys2Proof.Machine

/-- Settles O9: the inverse is unique, and the byte the table gives once the affine step is undone is one. -/
theorem sboxMeetsItsDefinition : Obligations.SboxMeetsItsDefinition :=
  ⟨fun _ _ h => sbox_of_mul8_eq_one h, fun a ha => ⟨_, mul8_sboxAffineInv_sbox a ha⟩, by decide, invSbox_sbox⟩

/-- Settles O10: the rounds are undone one by one, whatever the round keys are, so the key's length is not used. -/
theorem aesDecryptInvertsEncrypt : Obligations.AesDecryptInvertsEncrypt := fun k x _ => aesDecrypt_aesEncrypt k x

end

section
/-! O11, O12 and O14 (45_hash_hmac.md): message padding, the constants of SHA-2, the key of HMAC. -/

namespace Sys2Proof
namespace Machine

/-! ### Message padding (R272) -/

/-- The zero bytes `shaPad` appends. -/
def shaZeroCount (blockLen used : Nat) : Nat := (blockLen - used % blockLen) % blockLen

theorem shaPad_eq (blockLen lenLen : Nat) (m : Bytes) :
    shaPad blockLen lenLen m =
      m ++ [0x80] ++ zeros (shaZeroCount blockLen (m.length + 1 + lenLen)) ++ beBytes lenLen (8 * m.length) := rfl

/-- With `shaZeroCount` zero bytes the last block is full. -/
theorem add_shaZeroCount_modEq {blockLen : Nat} (hB : 0 < blockLen) (used : Nat) :
    used + shaZeroCount blockLen used ≡ 0 [MOD blockLen] := by
  rw [shaZeroCount, Nat.ModEq, Nat.add_mod_mod, ← Nat.mod_add_mod, Nat.add_sub_cancel' (Nat.mod_lt _ hB).le,
    Nat.mod_self, Nat.zero_mod]

/-- Every count that fills the last block is congruent to `shaZeroCount`, which is below a block. -/
theorem shaZeroCount_le {blockLen used j : Nat} (hB : 0 < blockLen) (hj : used + j ≡ 0 [MOD blockLen]) :
    shaZeroCount blockLen used ≤ j := by
  have hcongr : shaZeroCount blockLen used ≡ j [MOD blockLen] :=
    Nat.ModEq.add_left_cancel' used ((add_shaZeroCount_modEq hB used).trans hj.symm)
  calc shaZeroCount blockLen used = shaZeroCount blockLen used % blockLen := (Nat.mod_mod _ _).symm
    _ = j % blockLen := hcongr
    _ ≤ j := Nat.mod_le j blockLen

/-! ### The key of HMAC (R276) -/

section
variable (h : Config.HashAlg) (key : Bytes)

theorem hmacKey_of_le (hle : key.length ≤ h.blockLen) : hmacKey h key = key ++ zeros (h.blockLen - key.length) := by
  rw [hmacKey, if_neg hle.not_gt]

theorem hmacKey_of_lt (hv : h.Valid) (hlt : h.blockLen < key.length) :
    hmacKey h key = h.hash key ++ zeros (h.blockLen - h.digestLen) := by
  rw [hmacKey, if_pos hlt, hv.hash_length]

theorem length_hmacKey (hv : h.Valid) : (hmacKey h key).length = h.blockLen := by
  rcases le_or_gt key.length h.blockLen with hle | hlt
  · rw [hmacKey_of_le h key hle, List.length_append, length_zeros, Nat.add_sub_cancel' hle]
  · rw [hmacKey_of_lt h key hv hlt, List.length_append, length_zeros, hv.hash_length,
      Nat.add_sub_cancel' hv.digest_le_blk]

end

/-! ### The constants of SHA-256 and SHA-512 (R274, R275)

The integer part of a root is below 8 (`8 ^ 3 > 409`), so it is found among eight numbers, and each clause is a finite
fact about the printed table. -/

/-- The primes below 410, the first 80. -/
def firstPrimes : List Nat :=
  [2, 3, 5, 7, 11, 13, 17, 19, 23, 29, 31, 37, 41, 43, 47, 53, 59, 61, 67, 71, 73, 79, 83, 89, 97, 101, 103, 107, 109,
    113, 127, 131, 137, 139, 149, 151, 157, 163, 167, 173, 179, 181, 191, 193, 197, 199, 211, 223, 227, 229, 233, 239,
    241, 251, 257, 263, 269, 271, 277, 281, 283, 293, 307, 311, 313, 317, 331, 337, 347, 349, 353, 359, 367, 373, 379,
    383, 389, 397, 401, 409]

theorem filter_prime_range : (List.range 410).filter (fun n => decide (Nat.Prime n)) = firstPrimes := by
  decide +kernel

/-- `x` is the integer `e`-th root of `n`. -/
abbrev IsRoot (e n x : Nat) : Prop := x ^ e ≤ n ∧ n < (x + 1) ^ e

/-- The first `n` words of a table are the first `w` bits of the fractional parts of the `e`-th roots of the first
primes, each integer part below 8. -/
abbrev HoldsRoots (e n : Nat) {w : Nat} (table : List (BitVec w)) : Prop :=
  ∀ t < n, ∃ r < 8, IsRoot e (firstPrimes.getD t 0 * 2 ^ (e * w)) (r * 2 ^ w + (table.getD t 0).toNat)

theorem holdsRoots_sha256Consts : HoldsRoots 3 64 sha256Consts := by decide +kernel

theorem holdsRoots_sha512Consts : HoldsRoots 3 80 sha512Consts := by decide +kernel

theorem holdsRoots_sha256Init : HoldsRoots 2 8 sha256Init := by decide +kernel

theorem holdsRoots_sha512Init : HoldsRoots 2 8 sha512Init := by decide +kernel

theorem HoldsRoots.exists_isRoot {e n w : Nat} {table : List (BitVec w)} (h : HoldsRoots e n table) :
    ∀ t < n, ∃ r, IsRoot e (firstPrimes.getD t 0 * 2 ^ (e * w)) (r * 2 ^ w + (table.getD t 0).toNat) :=
  fun t ht => (h t ht).imp fun _ hr => hr.2

end Machine
end Sys2Proof
end

section
open Sys2Proof Sys2Proof.Machine

/-- Settles O11: the zero bytes are the one count below a block that fills the last block. -/
theorem messagePaddingIsLeast : Obligations.MessagePaddingIsLeast := by
  intro blockLen lenLen m hB
  refine ⟨shaZeroCount blockLen (m.length + 1 + lenLen), shaPad_eq blockLen lenLen m, ?_, fun j hj => ?_⟩
  · rw [Nat.add_right_comm]
    exact add_shaZeroCount_modEq hB _
  · rw [Nat.add_right_comm] at hj
    exact shaZeroCount_le hB hj

/-- Settles O14, by the two cases of `hmacKey`. -/
theorem hmacKeyIsOneBlock : Obligations.HmacKeyIsOneBlock := fun h key hv =>
  ⟨length_hmacKey h key hv, hmacKey_of_le h key, hmacKey_of_lt h key hv⟩

/-- Settles O12: the primes are listed once, and each table is compared with its roots. -/
theorem sha2ConstantsAreRoots : Obligations.Sha2ConstantsAreRoots := by
  unfold Obligations.Sha2ConstantsAreRoots
  rw [filter_prime_range]
  exact ⟨holdsRoots_sha256Consts.exists_isRoot, holdsRoots_sha512Consts.exists_isRoot,
    holdsRoots_sha256Init.exists_isRoot, holdsRoots_sha512Init.exists_isRoot⟩

end

section
/-! The commands as a whole (spec 46_system_commands.md R301 to R307): what the run step and the answer step of any
command can do, which of its operands the effect depends on, and how the sequencer goes through a command. -/

namespace Sys2Proof
namespace Machine

/-! ### The length check (R304) -/

theorem State.lengthsOk_params_eq_false_iff (s : State) : s.lengthsOk params = false ↔
    256 < s.keyLen.toNat ∨ 256 < s.akeyLen.toNat ∨ 65535 < s.inLen.toNat := by
  rw [Bool.eq_false_iff, Ne, State.lengthsOk_iff, not_and_or, not_and_or, not_le, not_le, not_le]
  rfl

/-- Nothing of a command but `CLEAR` is done before the check. -/
theorem exec_of_lengths_not_ok {s : State} (i : Instr) (hi : i ≠ .clear) (hrun : s.phase = .run)
    (hl : s.lengthsOk params = false) : exec i s = .next (s.finishErr .operandLength) := by
  have hchecked (u : State) : s.checked params u = s.finishErr .operandLength := s.checked_of_not_ok params u hl
  cases i with
  | clear => exact absurd rfl hi
  | genNonce size => rw [exec_genNonce_run size hrun, hchecked]
  | gcmEnc => rw [exec_gcmEnc_run hrun, hchecked]
  | cbcEnc sel => rw [exec_cbcEnc_run sel hrun, hchecked]
  | pad _ | unpad | gcmDec | cbcDec _ => exact congrArg Host.Outcome.next (hchecked _)

/-! ### What a command can do (R303, R305, R330) -/

/-- A step of a command other than `CLEAR`: it ends with an error or a result that fits in `OUT`, asks for the bytes it
draws, or goes on waiting. -/
inductive CommandStep (p : Config.Params) (i : Instr) (s : State) : State → Prop where
  | ends (r : Except EngineError Bytes)
      (hlen : s.lengthsOk p = true → ∀ out, r = .ok out → out.length ≤ p.outMax) : CommandStep p i s (s.finish r)
  | asks (n : Byte) (hrun : s.phase = .run) (hn : drawLength i = some n) : CommandStep p i s (s.need n)
  | stays (hwait : s.phase = .wait) (hnone : s.answer = none) : CommandStep p i s s

section
variable {p : Config.Params} {i : Instr} {s t : State}

theorem CommandStep.failed (e : EngineError) : CommandStep p i s (s.finishErr e) :=
  .ends (.error e) fun _ _ he => by cases he

/-- A result that exceeds the input by at most 255 bytes fits when the input does (R13, R14). -/
theorem CommandStep.finish (r : Except EngineError Bytes)
    (hlen : ∀ out, r = .ok out → out.length ≤ s.inBytes.length + 255) : CommandStep p i s (s.finish r) :=
  .ends r fun hl out ho => (hlen out ho).trans (inBytes_length_le hl)

theorem CommandStep.checked (h : CommandStep p i s t) : CommandStep p i s (s.checked p t) :=
  State.checked_of (.failed _) fun _ => h

theorem CommandStep.resume (rest : Config.EntropyAnswer → Except EngineError Bytes) (hwait : s.phase = .wait)
    (hlen : ∀ a out, rest a = .ok out → out.length ≤ s.inBytes.length + 255) : CommandStep p i s (s.resume rest) := by
  cases ha : s.answer with
  | none => rw [State.resume_none s rest ha]; exact .stays hwait ha
  | some a => rw [State.resume_some s rest a ha]; exact .finish (rest a) (hlen a)

/-- The step of each command but `CLEAR`; the bound on its result is that of its operation. -/
theorem execAt_commandStep (hp : p.Valid) (hi : i ≠ .clear) (h : execAt p i s = .next t) : CommandStep p i s t := by
  cases i with
  | clear => exact absurd rfl hi
  | genNonce size =>
    cases h
    unfold genNonceRun
    split
    · rename_i hrun
      refine .checked ?_
      split
      · exact .finish (.ok []) fun _ ho => Except.ok.inj ho ▸ Nat.zero_le _
      · rename_i hsize
        exact .asks size hrun (if_neg hsize)
    · rename_i hwait
      refine .resume _ hwait fun a out ho => ?_
      have := generateNonce_length _ a out ho
      have := size.isLt
      omega
  | pad bs => cases h; exact .checked (.finish _ (padResult_length_le bs s.inBytes))
  | unpad =>
    cases h
    exact .checked (.finish _ fun out ho => (unpadBytes_length_le _ out ho).trans (Nat.le_add_right ..))
  | gcmEnc =>
    cases h
    unfold gcmEncRun
    split
    · rename_i hrun
      refine .checked ?_
      split
      · exact .failed _
      · exact .asks 12 hrun rfl
    · rename_i hwait
      refine .resume _ hwait fun a out ho => ?_
      have := gcmEncrypt_length _ _ _ a out ho
      omega
  | gcmDec =>
    cases h
    exact .checked (.finish _ fun out ho => (gcmDecrypt_length_le _ _ _ out ho).trans (Nat.le_add_right ..))
  | cbcEnc sel =>
    cases h
    unfold cbcEncRun
    split
    · rename_i hrun
      refine .checked ?_
      split
      · exact .failed _
      · exact .asks 16 hrun rfl
    · rename_i hwait
      refine .resume _ hwait fun a out ho => ?_
      have := cbcHmacEncrypt_length_le p hp _ _ _ sel a out ho
      omega
  | cbcDec sel =>
    cases h
    exact .checked (.finish _ fun out ho => (cbcHmacDecrypt_length_le _ _ _ _ _ out ho).trans (Nat.le_add_right ..))

/-- `OUT_LEN` is a word: below `2^32` it is the length of the result, and `OUT` from there on is not written. -/
theorem DoneWith.length_and_rest {out : Bytes} (h : DoneWith s t out) (hlen : out.length < 2 ^ 32) :
    out.length = t.outLen.toNat ∧ ∀ j, t.outLen.toNat ≤ j → Memory.read t.out j = Memory.read s.out j := by
  have hnat : out.length = t.outLen.toNat := by rw [h.outLen, BitVec.toNat_ofNat, Nat.mod_eq_of_lt hlen]
  refine ⟨hnat, fun j hj => ?_⟩
  rw [h.out, List.getD_eq_default _ _ (hnat.trans_le hj)]

/-! ### What the effect of a command depends on (R307) -/

theorem SameOperands.lengthsOk_eq (h : SameOperands s t) : s.lengthsOk p = t.lengthsOk p := by
  rw [State.lengthsOk, State.lengthsOk, h.keyLen, h.akeyLen, h.inLen]

/-- `s'` and `t'` are what one and the same effect makes of `s` and of `t`. -/
inductive SameEffect (s t : State) : State → State → Prop where
  | finish (r : Except EngineError Bytes) : SameEffect s t (s.finish r) (t.finish r)
  | need (n : Byte) : SameEffect s t (s.need n) (t.need n)
  | clear : SameEffect s t s.finishClear t.finishClear
  | stay : SameEffect s t s t

theorem SameEffect.checked {s' t' : State} (h : SameOperands s t) (he : SameEffect s t s' t') :
    SameEffect s t (s.checked p s') (t.checked p t') := by
  unfold State.checked
  rw [h.lengthsOk_eq]
  split
  · exact he
  · exact .finish (.error .operandLength)

theorem SameEffect.resume (h : SameOperands s t) (rest : Config.EntropyAnswer → Except EngineError Bytes) :
    SameEffect s t (s.resume rest) (t.resume rest) := by
  unfold State.resume
  rw [h.answer]
  split
  · exact .stay
  · exact .finish (rest _)

/-- The effect of a command is a function of the operands, the sequencer and the answer. -/
theorem exec_sameEffect (i : Instr) (h : SameOperands s t) :
    ∃ s' t', exec i s = .next s' ∧ exec i t = .next t' ∧ SameEffect s t s' t' := by
  cases i with
  | clear => exact ⟨_, _, rfl, rfl, .clear⟩
  | genNonce size =>
    refine ⟨_, _, rfl, rfl, ?_⟩
    unfold genNonceRun
    rw [h.phase]
    split
    · refine .checked h ?_
      split
      · exact .finish (.ok [])
      · exact .need size
    · exact .resume h _
  | pad bs => exact ⟨_, _, rfl, rfl, .checked h (h.inp ▸ .finish _)⟩
  | unpad => exact ⟨_, _, rfl, rfl, .checked h (h.inp ▸ .finish _)⟩
  | gcmEnc =>
    refine ⟨_, _, rfl, rfl, ?_⟩
    unfold gcmEncRun
    rw [h.phase, h.keyLen, h.key, h.inp]
    split
    · refine .checked h ?_
      split
      · exact .finish (.error .keyTooShort)
      · exact .need 12
    · exact .resume h _
  | gcmDec => exact ⟨_, _, rfl, rfl, .checked h (h.key ▸ h.inp ▸ .finish _)⟩
  | cbcEnc sel =>
    refine ⟨_, _, rfl, rfl, ?_⟩
    unfold cbcEncRun
    rw [h.phase, h.key, h.akey, h.inp]
    split
    · refine .checked h ?_
      split
      · exact .finish (.error .unsupportedHash)
      · exact .need 16
    · exact .resume h _
  | cbcDec sel => exact ⟨_, _, rfl, rfl, .checked h (h.key ▸ h.akey ▸ h.inp ▸ .finish _)⟩

/-! ### How the sequencer goes through a command (R301, R303, R309) -/

/-- A word that decodes is run as its instruction (R303). -/
theorem runCommand_eq_exec (s : State) (i : Instr) (hd : decode s.cmd = .ok i) : runCommand params s = exec i s :=
  (runCommand_of_decode params s i hd).trans (execAt_params i s)

/-- Out of `P_RUN` and with an answer on the port an operation ends, whatever it is (R303). -/
theorem OpStep.ends (h : OpStep s t) (hwait : s.phase = .wait) (ha : s.answer ≠ none) :
    t.engine ≠ .busy ∧ t.inputs = s.inputs := by
  cases h with
  | done _ | failed _ | cleared => exact ⟨by simp, rfl⟩
  | asks n hrun => exact absurd (hrun.symm.trans hwait) (by decide)
  | stays _ hnone => exact absurd hnone ha

/-- In `P_RUN` an operation ends or asks for random bytes (R303). -/
theorem OpStep.ends_or_asks (h : OpStep s t) (hrun : s.phase = .run) :
    (t.engine ≠ .busy ∧ t.inputs = s.inputs) ∨ ∃ n, t = s.need n := by
  cases h with
  | done _ | failed _ | cleared => exact .inl ⟨by simp, rfl⟩
  | asks n _ => exact .inr ⟨n, rfl⟩
  | stays hwait _ => exact absurd (hrun.symm.trans hwait) (by decide)

/-- An answer that is due when the engine is not busy is ignored (R360). -/
theorem step_entropy_of_not_busy (era : Nat) (a : Config.EntropyAnswer) (es : List Input) (hb : s.engine ≠ .busy)
    (hin : s.inputs = .entropy era a :: es) : step s = .next { s with inputs := es } :=
  (step_cons s _ es hin).trans (entropyStep_of_not_wait params era a { s with inputs := es } fun h => hb h.1)

/-- An answer to the outstanding request runs the rest of the command (R133). -/
theorem step_answer (a : Config.EntropyAnswer) (es : List Input) (hb : s.engine = .busy) (hwait : s.phase = .wait)
    (hin : s.inputs = .entropy s.resets a :: es) :
    step s = runCommand params { s with inputs := es, answer := some a } :=
  (step_cons s _ es hin).trans (entropyStep_of_wait params a { s with inputs := es } hb hwait)

theorem step_answer_ends (a : Config.EntropyAnswer) (es : List Input) (hb : s.engine = .busy) (hwait : s.phase = .wait)
    (hin : s.inputs = .entropy s.resets a :: es) : ∃ t, step s = .next t ∧ t.engine ≠ .busy ∧ t.inputs = es := by
  obtain ⟨t, ht, hop⟩ := runCommand_opStep params { s with inputs := es, answer := some a }
  exact ⟨t, (step_answer a es hb hwait hin).trans ht, hop.ends hwait (Option.some_ne_none a)⟩

/-! ### The transition table (R301) -/

/-- The rows of the run step: the operation ends, or it asks for as many bytes as it draws. -/
def RunRow (s t : State) : Prop :=
  s.engine = .busy ∧ s.phase = .run ∧
    ((t.phase = .run ∧ (t.engine = .done ∨ t.engine = .error ∨ (s.cmd = 0 ∧ t.engine = .idle))) ∨
     (t.engine = .busy ∧ t.phase = .wait ∧ ∃ i, decode s.cmd = .ok i ∧ drawLength i = some t.rngN))

/-- The rows of the answer step: the operation ends. -/
def AnswerRow (s t : State) : Prop :=
  s.engine = .busy ∧ s.phase = .wait ∧ (t.engine = .done ∨ t.engine = .error) ∧ t.phase = .run

/-- The rows of the table with their events; a step of any other kind leaves both fields. -/
inductive TableRow (s t : State) : Prop where
  | stays (hengine : t.engine = s.engine) (hphase : t.phase = s.phase)
  | starts (hb : s.engine ≠ .busy) (hevent : ∃ w es, s.inputs = .writeReg 0 w :: es) (hengine : t.engine = .busy)
      (hphase : t.phase = .run)
  | runs (hevent : s.inputs = [] ∨ ∃ es, s.inputs = .engineTurn :: es) (hrow : RunRow s t)
  | answered (hevent : s.inputs = [] ∨ ∃ a es, s.inputs = .entropy s.resets a :: es) (hrow : AnswerRow s t)
  | wasReset (hevent : ∃ es, s.inputs = .reset :: es) (hengine : t.engine = .idle) (hphase : t.phase = .run)

/-- `IDLE` is reached by `CLEAR` only, whose word is 0. -/
theorem Completion.ended (h : Completion p s t) :
    t.phase = .run ∧ (t.engine = .done ∨ t.engine = .error ∨ (s.cmd = 0 ∧ t.engine = .idle)) := by
  cases h with
  | done _ _ => exact ⟨rfl, .inl rfl⟩
  | failed _ => exact ⟨rfl, .inr (.inl rfl)⟩
  | cleared hcmd => exact ⟨rfl, .inr (.inr ⟨hcmd, rfl⟩)⟩

theorem RunStep.row (h : RunStep p s t) (hb : s.engine = .busy) (hrun : s.phase = .run) : RunRow s t := by
  cases h with
  | ends hc => exact ⟨hb, hrun, .inl hc.ended⟩
  | asks n hw => exact ⟨hb, hrun, .inr ⟨hb, rfl, hw.draws⟩⟩

/-- `CLEAR` draws nothing, so it never waits. -/
theorem WaitOk.cmd_ne_zero (h : WaitOk p s) : s.cmd ≠ 0 := by
  intro hcmd
  obtain ⟨i, hd, hn⟩ := h.draws
  have hi : i = .clear := Except.ok.inj (hd.symm.trans (hcmd ▸ decode_encode .clear))
  subst hi
  cases hn

theorem engineStep_row (ht : engineStep p s = .next t) : t = s ∨ RunRow s t := by
  by_cases hrun : s.engine = .busy ∧ s.phase = .run
  · obtain ⟨hb, hph⟩ := hrun
    rw [engineStep_of_run p s hb hph] at ht
    refine .inr (RunStep.row (p := p) ?_ hb hph)
    cases hd : decode s.cmd with
    | error e =>
      rw [runCommand_of_illegal p s e hd] at ht
      cases ht
      exact .ends (.failed _)
    | ok i =>
      rw [runCommand_of_decode p s i hd] at ht
      exact execAt_runStep p s t i hd hph ht
  · rw [engineStep_of_not_run p s hrun] at ht
    exact .inl (Host.Outcome.next.inj ht).symm

theorem entropyStep_row (hp : p.Valid) (h : Inv p s) (era : Nat) (a : Config.EntropyAnswer)
    (ht : entropyStep p era a s = .next t) : t = s ∨ (era = s.resets ∧ AnswerRow s t) := by
  unfold entropyStep at ht
  split at ht
  · rename_i hen
    obtain ⟨hb, hwait, hera⟩ := hen
    have hw := h.waiting hb hwait
    obtain ⟨i, hd, hn⟩ := hw.draws
    rw [runCommand_of_decode p { s with answer := some a } i hd] at ht
    have hends := execAt_completion (s := { s with answer := some a }) hp i s.rngN a hn hw.lengths hwait rfl ht
    obtain ⟨hrun, hdone | herror | ⟨hcmd, _⟩⟩ := hends.ended
    · exact .inr ⟨hera, hb, hwait, .inl hdone, hrun⟩
    · exact .inr ⟨hera, hb, hwait, .inr herror, hrun⟩
    · exact absurd hcmd hw.cmd_ne_zero
  · exact .inl (Host.Outcome.next.inj ht).symm

theorem SameOperation.engine_phase (h : SameOperation s t) : t.engine = s.engine ∧ t.phase = s.phase := by
  unfold SameOperation at h
  exact ⟨(congrArg State.engine h :), (congrArg State.phase h :)⟩

/-- Of the host's accesses only an accepted `CMD` write is in the table. -/
theorem hostAccess_row (e : Input) (he : e.isHostAccess = true) (ht : applyInput p e s = .next t) :
    (t.engine = s.engine ∧ t.phase = s.phase) ∨
    (s.engine ≠ .busy ∧ (∃ w, e = .writeReg 0 w) ∧ t.engine = .busy ∧ t.phase = .run) := by
  by_cases hb : s.engine = .busy
  · obtain ⟨u, hu, hsame⟩ := applyInput_sameOperation p s hb e he
    cases ht.symm.trans hu
    exact .inl hsame.engine_phase
  · cases e with
    | readReg _ | readBuf _ _ => cases ht; exact .inl ⟨rfl, rfl⟩
    | writeBuf id i v =>
      cases ht
      rw [hostWriteBuf_of_not_busy p s hb]
      exact .inl ⟨rfl, rfl⟩
    | writeReg n v =>
      cases ht
      by_cases hn : n = 0
      · subst hn
        have hstart : hostWriteReg s 0 v = s.startCommand v := s.unlessBusy_of_not_busy _ hb
        rw [hstart]
        exact .inr ⟨hb, ⟨v, rfl⟩, rfl, rfl⟩
      · rw [hostWriteReg_of_not_busy s hb n v hn]
        exact .inl ⟨rfl, rfl⟩
    | engineTurn | entropy _ _ | reset => cases he

theorem applyInput_tableRow (hp : p.Valid) (h : Inv p s) (e : Input) (es : List Input) (hin : s.inputs = e :: es)
    (ht : applyInput p e { s with inputs := es } = .next t) : TableRow s t := by
  cases e with
  | readReg _ | writeReg _ _ | readBuf _ _ | writeBuf _ _ _ =>
    obtain ⟨hengine, hphase⟩ | ⟨hb, ⟨w, he⟩, hengine, hphase⟩ := hostAccess_row _ rfl ht
    · exact .stays hengine hphase
    · exact .starts hb ⟨w, es, he ▸ hin⟩ hengine hphase
  | engineTurn =>
    obtain rfl | hrow := engineStep_row ht
    · exact .stays rfl rfl
    · exact .runs (.inr ⟨es, hin⟩) hrow
  | entropy era a =>
    obtain rfl | ⟨rfl, hrow⟩ := entropyStep_row hp (h.withInputs es) era a ht
    · exact .stays rfl rfl
    · exact .answered (.inr ⟨a, es, hin⟩) hrow
  | reset => cases ht; exact .wasReset ⟨es, hin⟩ rfl rfl

theorem freeStep_tableRow (hp : p.Valid) (h : Inv p s) (hin : s.inputs = []) (ht : freeStep p s = .next t) :
    TableRow s t := by
  unfold freeStep at ht
  split at ht
  · split at ht
    · cases ht; exact .stays rfl rfl
    · have htick : Inv p { s with ticks := s.ticks + 1 } :=
        h.withOutside s.inputs s.readData s.ie (s.ticks + 1) s.haz fun hi => (h.idle hi).2
      obtain rfl | ⟨-, hrow⟩ := entropyStep_row hp htick _ _ ht
      · exact .stays rfl rfl
      · exact .answered (.inl hin) hrow
  · obtain rfl | hrow := engineStep_row ht
    · exact .stays rfl rfl
    · exact .runs (.inl hin) hrow

/-- Every step of an engine with valid parameters is a row of the table, or leaves `STATUS.state` and `phase`. -/
theorem advance_tableRow (hp : p.Valid) (h : Inv p s) (ht : advance p s = .next t) : TableRow s t := by
  cases hin : s.inputs with
  | nil => exact freeStep_tableRow hp h hin (advance_nil p s hin ▸ ht)
  | cons e es => exact applyInput_tableRow hp h e es hin (advance_cons p s e es hin ▸ ht)

/-- A `CMD` write that a busy engine drops (R65, R301). -/
theorem step_writeCmd_of_busy (w : Word) (es : List Input) (hb : s.engine = .busy)
    (hin : s.inputs = .writeReg 0 w :: es) : step s = .next { s with inputs := es, haz := true } :=
  (step_cons s _ es hin).trans (congrArg Host.Outcome.next (State.unlessBusy_of_busy { s with inputs := es } _ hb))

end

end Machine
end Sys2Proof
end

section
open Sys2Proof Sys2Proof.Machine

/-- Settles O28: the record `FinishClear` writes. -/
theorem clearCompletes : Obligations.ClearCompletes := fun _ => rfl

/-- Settles O38: every other command begins with `State.checked`. -/
theorem lengthCheckComesFirst : Obligations.LengthCheckComesFirst := fun i s hi hrun hbad =>
  ⟨_, exec_of_lengths_not_ok i hi hrun (s.lengthsOk_params_eq_false_iff.mpr hbad), s.finishErr_failedWith _⟩

/-- Settles O43, by the ways a command can step; a result within `OUT_MAX` has its length in `OUT_LEN`. -/
theorem commandFrame : Obligations.CommandFrame := by
  intro i s t hi h
  cases execAt_commandStep defaultParametersAreValid hi ((execAt_params i s).trans h) with
  | ends r hlen =>
    cases r with
    | ok out =>
      have hdone := s.finishOk_doneWith out
      exact .inl ⟨out, hdone, fun hl => hdone.length_and_rest
        ((hlen hl out rfl).trans_lt (outMax_lt_of_valid defaultParametersAreValid))⟩
    | error e => exact .inr (.inl ⟨e, s.finishErr_failedWith e⟩)
  | asks n hrun hn => exact .inr (.inr (.inl ⟨hrun, n, hn, s.need_waitsFor n⟩))
  | stays hwait hnone => exact .inr (.inr (.inr ⟨hwait, hnone, rfl⟩))

/-- Settles O44: the effect is the same, and both states start with an empty `OUT`. -/
theorem resultDependsOnOperandsOnly : Obligations.ResultDependsOnOperandsOnly := by
  intro i s t h hs ht
  obtain ⟨s', t', hs', ht', he⟩ := exec_sameEffect i h
  refine ⟨s', t', hs', ht', ?_⟩
  have hengine : s.engine = t.engine := hs.engine.trans ht.engine.symm
  have herr : s.err = t.err := hs.err.trans ht.err.symm
  have houtLen : s.outLen = t.outLen := hs.outLen.trans ht.outLen.symm
  have hout : s.out = t.out := hs.out.trans ht.out.symm
  cases he with
  | finish r =>
    cases r with
    | ok out => exact ⟨rfl, rfl, rfl, fun j => by simp [State.finish, hout], rfl, rfl⟩
    | error e => exact ⟨rfl, rfl, rfl, fun _ => rfl, rfl, rfl⟩
  | need n => exact ⟨hengine, herr, houtLen, fun j => congrArg (Memory.read · j) hout, rfl, rfl⟩
  | clear => exact ⟨rfl, rfl, rfl, fun _ => rfl, rfl, rfl⟩
  | stay => exact ⟨hengine, herr, houtLen, fun j => congrArg (Memory.read · j) hout, h.phase, h.rngN⟩

/-- Settles O49: a word that decodes is run as its instruction. -/
theorem stepRunsTheCommand : Obligations.StepRunsTheCommand := by
  intro s i hb hd
  refine ⟨fun hp hin => ?_, fun hp es hin => ?_, fun hw a es hin => ?_⟩
  · rw [step_nil s hin, freeStep_of_run params s hp, engineStep_of_run params s hb hp]
    exact runCommand_eq_exec s i hd
  · rw [step_run s es hb hp (.inr hin)]
    exact runCommand_eq_exec { s with inputs := es } i hd
  · rw [step_answer a es hb hw hin]
    exact runCommand_eq_exec { s with inputs := es, answer := some a } i hd

/-- Settles O50: each step is a row of the table by its event, and a busy engine drops a `CMD` write. -/
theorem stateChangesOnlyByTheTable : Obligations.StateChangesOnlyByTheTable := by
  intro s t h ht
  refine ⟨?table, ?dropped⟩
  case table =>
    cases advance_tableRow defaultParametersAreValid h ht with
    | stays hengine hphase => exact .inl ⟨hengine, hphase⟩
    | starts hb hevent hengine hphase => exact .inr (.inl ⟨hb, hevent, hengine, hphase⟩)
    | runs hevent hrow =>
      obtain ⟨hb, hrun, hend | hask⟩ := hrow
      · exact .inr (.inr (.inl ⟨hb, hrun, hevent, hend⟩))
      · exact .inr (.inr (.inr (.inl ⟨hb, hrun, hevent, hask⟩)))
    | answered hevent hrow =>
      obtain ⟨hb, hwait, hend⟩ := hrow
      exact .inr (.inr (.inr (.inr (.inl ⟨hb, hwait, hevent, hend⟩))))
    | wasReset hevent hengine hphase => exact .inr (.inr (.inr (.inr (.inr ⟨hevent, hengine, hphase⟩))))
  case dropped =>
    rintro hb ⟨w, es, hin⟩
    cases ht.symm.trans (step_writeCmd_of_busy w es hb hin)
    exact ⟨hb, rfl, rfl⟩

/-- Settles O51: an operation that ends at once leaves the answer to be ignored, and one that asks takes it. -/
theorem operationEndsInTwoSteps : Obligations.OperationEndsInTwoSteps := by
  intro s a es hb hp hin
  obtain ⟨t, ht, hop⟩ := runCommand_opStep params { s with inputs := .entropy s.resets a :: es }
  rw [← step_run s _ hb hp (.inr hin)] at ht
  obtain ⟨hended, hrest⟩ | ⟨n, rfl⟩ := hop.ends_or_asks hp
  · exact ⟨t, _, ht, step_entropy_of_not_busy _ a es hended hrest, hended, rfl⟩
  · have hsecond := step_answer_ends (s := { s with inputs := .entropy s.resets a :: es }.need n) a es hb rfl rfl
    obtain ⟨u, hu, hend⟩ := hsecond
    exact ⟨_, u, ht, hu, hend⟩

/-- Settles O52: the command start, field by field. -/
theorem commandStart : Obligations.CommandStart := by
  intro s w es hb hin
  refine ⟨_, step_writeCmd s w es hb hin, ?fields⟩
  exact ⟨rfl, rfl, rfl, rfl, rfl, rfl, fun _ => rfl, rfl, rfl, rfl, rfl, rfl, rfl, rfl, rfl, rfl⟩

end

section
/-! The order in which the two codecs check their operands (spec 60_exceptions.md R325 with R102, R106): what each
failed check makes of the frame and of the function, and the two commands that report it. -/

namespace Sys2Proof
namespace Machine

/-- A command whose function fails ends with that error (R330). -/
theorem exists_failedWith_of_finish {s : State} {i : Instr} {r : Except EngineError Bytes} {e : EngineError}
    (hexec : exec i s = .next (s.finish r)) (hr : r = .error e) : ∃ t, exec i s = .next t ∧ FailedWith s t e :=
  ⟨_, hexec, hr ▸ s.finishErr_failedWith e⟩

/-! ### Frames that do not parse (R102, R106) -/

theorem parseGcmFrame_invalidNonceLength (f : Bytes) (h : f.head? ≠ some 12 ∨ f.length < 13) :
    parseGcmFrame f = .error .invalidNonceLength := by
  cases f with
  | nil => rfl
  | cons nl r =>
    by_cases hnl : nl = 12
    · subst hnl
      have hlen := h.resolve_left (not_not.mpr rfl)
      simp only [parseGcmFrame, ne_eq, not_true_eq_false, if_false, if_pos hlen]
    · exact if_pos hnl

theorem parseCbcFrame_invalidIVLength (f : Bytes) (h : f.head? ≠ some 16 ∨ f.length < 17) :
    parseCbcFrame f = .error .invalidIVLength := by
  cases f with
  | nil => rfl
  | cons il r =>
    by_cases hil : il = 16
    · subst hil
      have hlen := h.resolve_left (not_not.mpr rfl)
      simp only [parseCbcFrame, ne_eq, not_true_eq_false, if_false, if_pos hlen]
    · exact if_pos hil

/-- No byte for the length of the MAC, or one that says more than there is. -/
theorem parseCbcFrame_invalidMacLength (f : Bytes) (hhead : f.head? = some 16)
    (h : f.length = 17 ∨ (18 ≤ f.length ∧ f.length - 18 < (f.getD 17 0).toNat)) :
    parseCbcFrame f = .error .invalidMacLength := by
  obtain ⟨r, rfl⟩ := List.head?_eq_some_iff.mp hhead
  have hiv : ¬ (16 :: r).length < 17 := by omega
  simp only [parseCbcFrame, ne_eq, not_true_eq_false, if_false, if_neg hiv]
  rcases h with h17 | ⟨h18, hml⟩
  · exact if_pos (by omega)
  · rw [if_neg (by omega), if_pos hml]

/-! ### The functions of the codecs (R161, R163, R201, R203) -/

theorem gcmDecrypt_of_short_key (bc : Config.BlockCipher) (key frame : Bytes) (h : key.length < 16) :
    gcmDecrypt bc key frame = .error .keyTooShort := by
  simp only [gcmDecrypt, gcmKey, if_pos h]

theorem gcmDecrypt_of_parse_error (bc : Config.BlockCipher) (key frame : Bytes) (e : EngineError)
    (hkey : 16 ≤ key.length) (hf : parseGcmFrame frame = .error e) : gcmDecrypt bc key frame = .error e := by
  simp only [gcmDecrypt, gcmKey_of_le key hkey, hf]

/-- The key length is looked at once the IV is drawn. -/
theorem cbcHmacEncrypt_of_bad_key (p : Config.Params) (encKey authKey pt iv : Bytes) (sel : Byte) (h : Config.HashAlg)
    (hht : p.ht sel = some h) (hiv : iv.length = 16) (hkey : encKey.length ∉ p.bc.keyLens) :
    cbcHmacEncrypt p encKey authKey pt sel { ok := true, data := iv } = .error .cipherInitialization := by
  simp only [cbcHmacEncrypt, hht, generateNonce_of_success 16 iv (by decide) hiv, if_pos hkey]

theorem cbcOpenVerified_of_bad_key (bc : Config.BlockCipher) (encKey iv ct : Bytes)
    (hkey : encKey.length ∉ bc.keyLens) : cbcOpenVerified bc encKey iv ct = .error .cipherInitialization := if_pos hkey

theorem cbcOpenVerified_of_not_blocks (bc : Config.BlockCipher) (encKey iv ct : Bytes)
    (hkey : encKey.length ∈ bc.keyLens) (hct : ct.length = 0 ∨ ct.length % 16 ≠ 0) :
    cbcOpenVerified bc encKey iv ct = .error .malformedCiphertext := by
  rw [cbcOpenVerified, if_neg (not_not.mpr hkey), if_pos hct]

/-! ### The operands of the commands -/

/-- AES takes no other key lengths (R242). -/
theorem length_keyBytes_not_mem_keyLens (s : State) (h16 : s.keyLen ≠ 16) (h24 : s.keyLen ≠ 24)
    (h32 : s.keyLen ≠ 32) : s.keyBytes.length ∉ params.bc.keyLens := by
  have hmem : s.keyLen.toNat ∈ [16, 24, 32] ↔ s.keyLen = 16 ∨ s.keyLen = 24 ∨ s.keyLen = 32 := by
    simp [BitVec.toNat_eq]
  rw [length_keyBytes]
  exact fun h => (hmem.mp h).elim h16 (Or.elim · h24 h32)

/-- The default table has no other selectors (R13). -/
theorem params_ht_eq_none (sel : Byte) (h1 : sel ≠ 1) (h2 : sel ≠ 2) : params.ht sel = none :=
  (if_neg h1).trans (if_neg h2)

/-- The three ways a clause says that a frame is too short or starts with the wrong byte (R102, R106). -/
theorem inBytes_badHead (s : State) (b : Byte) (n : Nat) (hn : 0 < n)
    (h : s.inLen = 0 ∨ s.inBytes.head? ≠ some b ∨ s.inLen.toNat < n) :
    s.inBytes.head? ≠ some b ∨ s.inBytes.length < n := by
  rw [length_inBytes]
  rcases h with h0 | h
  · exact .inr (h0 ▸ hn)
  · exact h

end Machine
end Sys2Proof
end

section
open Sys2Proof Sys2Proof.Machine

/-- Settles O40: each failed check, when the ones before it pass, decides what `GCM_ENC` and `GCM_DEC` end with. -/
theorem gcmErrorOrder : Obligations.GcmErrorOrder := by
  refine fun s hl => ⟨?encShortKey, ?decShortKey, ?frame, ?tag⟩
  case encShortKey =>
    intro hkey hrun
    refine ⟨_, exec_gcmEnc_run hrun, ?_⟩
    rw [State.checked_of_ok params s _ hl, if_pos hkey]
    exact s.finishErr_failedWith _
  case decShortKey =>
    intro hkey
    exact exists_failedWith_of_finish (exec_gcmDec hl) (gcmDecrypt_of_short_key aes _ _ (by rwa [length_keyBytes]))
  case frame =>
    intro hkey hbad
    exact exists_failedWith_of_finish (exec_gcmDec hl) (gcmDecrypt_of_parse_error aes _ _ _ (by rwa [length_keyBytes])
      (parseGcmFrame_invalidNonceLength _ (inBytes_badHead s 12 13 (by decide) hbad)))
  case tag =>
    intro hkey nonce ct hn hin hopen
    refine exists_failedWith_of_finish (exec_gcmDec hl) ?_
    rw [hin, gcmDecrypt_of_frame aes _ nonce ct (by rwa [length_keyBytes]) hn, hopen]
    rfl

/-- Settles O41: the run step looks the selector up, the answer step looks at the key length. -/
theorem cbcEncErrorOrder : Obligations.CbcEncErrorOrder := by
  refine fun s sel hl => ⟨?selector, ?keyLength⟩
  case selector =>
    intro h1 h2 hrun
    refine ⟨_, exec_cbcEnc_run sel hrun, ?_⟩
    rw [State.checked_of_ok params s _ hl, if_pos (params_ht_eq_none sel h1 h2)]
    exact s.finishErr_failedWith _
  case keyLength =>
    rintro hsel hwait iv ⟨ha, hiv⟩ h16 h24 h32
    obtain ⟨h, hht, -⟩ := exists_hash_of_sel sel hsel
    exact exists_failedWith_of_finish (exec_cbcEnc_answer sel _ hwait ha)
      (cbcHmacEncrypt_of_bad_key params _ _ _ iv sel h hht hiv (length_keyBytes_not_mem_keyLens s h16 h24 h32))

/-- Settles O42: the selector, the parser's two errors, the MAC, and then the checks of `cbcOpenVerified`. -/
theorem cbcDecErrorOrder : Obligations.CbcDecErrorOrder := by
  intro s sel hl
  have hfail {e : EngineError} := exists_failedWith_of_finish (e := e) (exec_cbcDec sel hl)
  refine ⟨fun h1 h2 => hfail (cbcHmacDecrypt_of_no_hash _ _ _ (params_ht_eq_none sel h1 h2)), fun h hht =>
    ⟨fun hbad => ?ivLength, fun hhead hbad => ?macLength, fun iv mac ct hiv hle hin => ?parsed⟩⟩
  case ivLength =>
    exact hfail (cbcHmacDecrypt_of_parse_error _ _ hht _ _
      (parseCbcFrame_invalidIVLength _ (inBytes_badHead s 16 17 (by decide) hbad)))
  case macLength =>
    refine hfail (cbcHmacDecrypt_of_parse_error _ _ hht _ _ (parseCbcFrame_invalidMacLength _ hhead ?_))
    rw [length_inBytes]
    exact hbad.imp_left (congrArg BitVec.toNat)
  case parsed =>
    have hdec := cbcHmacDecrypt_of_frame s.keyBytes s.akeyBytes hht iv mac ct hiv hle
    rw [← hin] at hdec
    have hverified {e : EngineError} (hmac_eq : mac = hmac h s.akeyBytes (iv ++ ct))
        (hopen : cbcOpenVerified params.bc s.keyBytes iv ct = .error e) :=
      hfail ((hdec.trans (if_pos hmac_eq)).trans hopen)
    refine ⟨fun hne => hfail (hdec.trans (if_neg hne)), fun heq h16 h24 h32 => ?keyLength, fun heq hkey hct => ?ctLength,
      fun heq hkey hne hmod hunpad => ?padding⟩
    case keyLength =>
      exact hverified heq (cbcOpenVerified_of_bad_key _ _ _ _ (length_keyBytes_not_mem_keyLens s h16 h24 h32))
    case ctLength =>
      exact hverified heq (cbcOpenVerified_of_not_blocks _ _ _ _ (length_keyBytes_mem_keyLens s hkey) hct)
    case padding =>
      exact hverified heq
        ((cbcOpenVerified_of_blocks _ _ _ _ (length_keyBytes_mem_keyLens s hkey) hne hmod).trans hunpad)

end

section
/-! The interrupt output and the answers that come too late (spec 60_exceptions.md R340, 70_reset_and_hazards.md
R360). -/

namespace Sys2Proof
namespace Machine

theorem State.irq_eq_true_iff (s : State) : s.irq = true ↔ s.ie = true ∧ (s.engine = .done ∨ s.engine = .error) := by
  simp [State.irq]

theorem State.irq_eq_false (s : State) (hdone : s.engine ≠ .done) (herror : s.engine ≠ .error) : s.irq = false :=
  Bool.eq_false_iff.mpr fun h => ((s.irq_eq_true_iff.mp h).2).elim hdone herror

/-- An answer that no request waits for, or whose request was made before a reset, only leaves the script (R360). -/
theorem step_entropy_of_unasked {s : State} (era : Nat) (a : Config.EntropyAnswer) (es : List Input)
    (hin : s.inputs = .entropy era a :: es) (h : ¬ (s.engine = .busy ∧ s.phase = .wait) ∨ era ≠ s.resets) :
    step s = .next { s with inputs := es } :=
  (step_cons s _ es hin).trans <|
    h.elim (entropyStep_of_not_wait params era a { s with inputs := es })
      (entropyStep_of_late params era a { s with inputs := es })

end Machine
end Sys2Proof
end

section
open Sys2Proof Sys2Proof.Machine

/-- Settles O58: an accepted command word makes the engine busy, `CLEAR` and reset make it idle. -/
theorem interruptIsALevel : Obligations.InterruptIsALevel := by
  refine fun s w => ⟨s.irq_eq_true_iff, fun hb => ?accepted, fun t ht => ?cleared, ?wasReset⟩
  case accepted =>
    have hstart : hostWriteReg s 0 w = s.startCommand w := s.unlessBusy_of_not_busy _ hb
    rw [hstart]
    exact State.irq_eq_false _ (by simp) (by simp)
  case cleared =>
    cases ht
    exact State.irq_eq_false _ (by simp) (by simp)
  case wasReset => exact State.irq_eq_false _ (nofun) (nofun)

/-- Settles O59: reset writes the reset state, and the answer step is not enabled for an answer that comes too late. -/
theorem resetAndLateAnswers : Obligations.ResetAndLateAnswers := fun s es =>
  ⟨step_cons s .reset es, fun era a => step_entropy_of_unasked era a es⟩

end
